-- ==== Sys2Proof/Word.lean ====
section
/-! DEFINITION. The word types of the block: bytes, host words, device addresses and raw codes (spec/00_scope.md R6, R8). -/

namespace Sys2Proof

/-- A bus data unit, and the width of DATA, RESULT and an RXBUF entry (R6 `BYTE_W`). -/
abbrev Byte := BitVec 8

/-- A command word and a host register (R6 `CMD_W`). -/
abbrev Word := BitVec 32

/-- A bus device address (R6 `DEV_W`). -/
abbrev DevAddr := BitVec 7

/-- A raw conversion code (R8 `u20`, R38). -/
abbrev RawCode := BitVec 20

end Sys2Proof
end

