-- ==== Sys2Proof/Machine/Arith.lean ====
section
/-! DEFINITION. The 32-bit arithmetic of the compensation engine (spec/43_compensation.md R210, R211) and the running
average (spec/44_measurement_cycles.md R254). A signed value is its 32-bit pattern. -/

namespace Sys2Proof.Machine

/-- `add32` (R210): wraps modulo 2^32. -/
def add32 (a b : Word) : Word := a + b

/-- `sub32` (R210). -/
def sub32 (a b : Word) : Word := a - b

/-- `mul32` (R210): the low 32 bits of the product. -/
def mul32 (a b : Word) : Word := a * b

/-- `shl32` (R210). -/
def shl32 (a : Word) (n : Nat) : Word := a <<< n

/-- `asr32` (R210): arithmetic right shift, rounding toward minus infinity. -/
def asr32 (a : Word) (n : Nat) : Word := a.sshiftRight n

/-- `uadd32` (R211). -/
def uadd32 (a b : Word) : Word := a + b

/-- `usub32` (R211). -/
def usub32 (a b : Word) : Word := a - b

/-- `umul32` (R211). -/
def umul32 (a b : Word) : Word := a * b

/-- `ushl32` (R211). -/
def ushl32 (a : Word) (n : Nat) : Word := a <<< n

/-- `ushr32` (R211): logical right shift. -/
def ushr32 (a : Word) (n : Nat) : Word := a >>> n

/-- `udiv32` (R211): the quotient rounded down; R218 never evaluates it with divisor 0. -/
def udiv32 (a b : Word) : Word := a.udiv b

/-- `avg(old, sample)` (R254): the sum modulo 2^32, halved with truncation. -/
def avg (old sample : Word) : Word := ushr32 (uadd32 old sample) 1

end Sys2Proof.Machine
end

