-- ==== Sys2Proof/Config.lean ====
section
/-! DEFINITION. What an implementation fixes (the OPEN parameters of spec/00_scope.md R6), the vocabulary of the bus
(events R44, replies R75), and the free values: constants without a body. -/

namespace Sys2Proof.Config

/-- `WAIT_LIMIT` (R6): `inf` or a positive count of polls. Only finiteness affects behaviour (R131). -/
inductive WaitLimit where
  /-- No bound: the reference behaviour. -/
  | inf
  /-- The bound `pollsLessOne + 1`, which is positive whatever the argument. -/
  | finite (pollsLessOne : Nat)
deriving DecidableEq, Repr

/-- The OPEN parameters of R6. -/
structure Params where
  /-- `BITRATE_INIT`: the value INIT loads into BITRATE. -/
  bitrateInit : Byte
  /-- `PRESCALE_INIT`: the value INIT loads into STATUS.PS. -/
  prescaleInit : BitVec 2
  /-- `WAIT_LIMIT`: the bound on every busy-wait. -/
  waitLimit : WaitLimit
  /-- `STOP_ON_ABORT`: whether an aborted transaction issues a stop condition. -/
  stopOnAbort : Bool
deriving DecidableEq, Repr

/-- FREE VALUE (log entry 5): the spec gives `BITRATE_INIT` no value. -/
opaque bitrateInit : Byte

/-- FREE VALUE (log entry 5): the spec gives `PRESCALE_INIT` no value. -/
opaque prescaleInit : BitVec 2

/-- The reference values of R6 (`WAIT_LIMIT = inf`, `STOP_ON_ABORT = false`), with the two values R6 leaves open free. -/
def reference : Params :=
  { bitrateInit := bitrateInit, prescaleInit := prescaleInit, waitLimit := .inf, stopOnAbort := false }

/-- The elements of `HIST` (R44). -/
inductive BusEvent where
  | start
  | repStart
  /-- Byte `b` sent, answered with ACK (`ack`) or NACK. -/
  | tx (b : Byte) (ack : Bool)
  /-- Byte `b` received and answered with ACK (`ack`) or NACK. -/
  | rx (b : Byte) (ack : Bool)
  | stop
  | arbLost
  | busErr
deriving DecidableEq, Repr

/-- The outcomes of `BusStart()` (R75). -/
inductive StartReply where
  | done | busErr | never
deriving DecidableEq, Repr, Inhabited

/-- The outcomes of `BusSend(b)` (R75). -/
inductive SendReply where
  | ack | nack | arbLost | busErr | never
deriving DecidableEq, Repr, Inhabited

/-- The outcomes of `BusRecv(ack)` (R75). -/
inductive RecvReply where
  | byte (v : Byte) | arbLost | busErr | never
deriving DecidableEq, Repr, Inhabited

/-- The outcomes of `BusStop()` (R75). -/
inductive StopReply where
  | done | never
deriving DecidableEq, Repr, Inhabited

/-- A reply of the environment as plain data, before it is known which action it answers. -/
inductive Reply where
  | done | ack | nack | byte (v : Byte) | arbLost | busErr | never
deriving DecidableEq, Repr

/-- FREE VALUE (log entries 1, 2): the environment's outcome of the `n`-th `BusStart()`, given the history. -/
opaque startReply : Nat → List BusEvent → StartReply

/-- FREE VALUE (log entries 1, 2): the environment's outcome of `BusSend(b)` as the `n`-th action, given the history. -/
opaque sendReply : Nat → List BusEvent → Byte → SendReply

/-- FREE VALUE (log entries 1, 2): the environment's outcome of `BusRecv(ack)` as the `n`-th action, given the history. -/
opaque recvReply : Nat → List BusEvent → Bool → RecvReply

/-- FREE VALUE (log entries 1, 2): the environment's outcome of `BusStop()` as the `n`-th action, given the history. -/
opaque stopReply : Nat → List BusEvent → StopReply

end Sys2Proof.Config
end

