-- ==== Sys2Proof/Syntax.lean ====
section
/-! DEFINITION. The eighteen commands of spec/opcode_table.json with their operands (spec/30_encoding.md R103). -/

namespace Sys2Proof

/-- One constructor per row of the opcode table. -/
inductive Instr where
  /-- `INIT` (R132) -/
  | init
  /-- `START` (R133) -/
  | start
  /-- `RSTART` (R134) -/
  | rstart
  /-- `STOP` (R135) -/
  | stop
  /-- `WRB byte` (R136) -/
  | wrb (byte : Byte)
  /-- `RDB ack` (R137) -/
  | rdb (ack : Bool)
  /-- `STAT` (R138) -/
  | stat
  /-- `WREG dev, reg, value` (R162) -/
  | wreg (dev : DevAddr) (reg value : Byte)
  /-- `RREG dev, reg` (R163) -/
  | rreg (dev : DevAddr) (reg : Byte)
  /-- `RBURST dev, reg, count` (R164) -/
  | rburst (dev : DevAddr) (reg count : Byte)
  /-- `LDCAL dev` (R190) -/
  | ldcal (dev : DevAddr)
  /-- `REQM dev` (R192) -/
  | reqm (dev : DevAddr)
  /-- `RDRT dev` (R193) -/
  | rdrt (dev : DevAddr)
  /-- `RDRP dev` (R194) -/
  | rdrp (dev : DevAddr)
  /-- `CMPT` (R215) -/
  | cmpt
  /-- `CMPP` (R219) -/
  | cmpp
  /-- `SINIT dev` (R253) -/
  | sinit (dev : DevAddr)
  /-- `SREAD dev` (R252) -/
  | sread (dev : DevAddr)
deriving DecidableEq, Repr

end Sys2Proof
end

