-- ==== Sys2Proof/Machine/State.lean ====
section
/-! DEFINITION. The state of AL-I2CM (spec/10_state.md R20) as plain data, its reset value (R46), and the reasons a step
can stop. -/

namespace Sys2Proof.Machine

open Sys2Proof.Config

/-- The bus phase (R25). -/
inductive Phase where
  | idle | started | addrSent | dataPhase | stopped
deriving DecidableEq, Repr

/-- The direction of the data phase (R25): write or read. -/
inductive Dir where
  | w | r
deriving DecidableEq, Repr

/-- The step labels of the sensor sequencer (R33, R250). -/
inductive SLabel where
  | s0 | s1 | s2 | s3 | s4 | s5 | s6 | s7 | s8 | s9
deriving DecidableEq, Repr

/-- The step labels of the transaction sequencer (R34, R161). -/
inductive TLabel where
  | t0 | t1 | t2 | t3 | t4 | t5 | t6 | t7 | t8 | t9
deriving DecidableEq, Repr

/-- The thirteen protocol status codes (R139). -/
inductive StatusCode where
  | start | repStart | slaWAck | slaWNoack | mtDataAck | mtDataNoack | arbLost | slaRAck | slaRNoack
  | mrDataAck | mrDataNoack | noInfo | busError
deriving DecidableEq, Repr

/-- The error kinds (R270). -/
inductive ErrKind where
  | none | protocolStatusMismatch | calibrationUnavailable | busTimeout | illegalCommand | notEnabled
  | sequenceViolation | orderViolation
deriving DecidableEq, Repr

/-- The calibration coefficient file `CAL[0..11]` (R37): sixteen-bit patterns, T1 and P1 unsigned, the rest signed. -/
structure Calib where
  t1 : BitVec 16
  t2 : BitVec 16
  t3 : BitVec 16
  p1 : BitVec 16
  p2 : BitVec 16
  p3 : BitVec 16
  p4 : BitVec 16
  p5 : BitVec 16
  p6 : BitVec 16
  p7 : BitVec 16
  p8 : BitVec 16
  p9 : BitVec 16
deriving DecidableEq, Repr

/-- A byte buffer: the cells that do not read 0, addresses strictly rising (DESIGN CHOICE, log entry 10). An unlisted entry reads `0x00`,
the reset contents of RXBUF (R46). -/
abbrev Memory := List Host.Cell

/-- What the outside of the block does next (R5, R72, R73, R300): MODEL vocabulary, DESIGN CHOICE, log entry 3. -/
inductive Input where
  /-- `HostWrite(n, v)` (R73). -/
  | hostWrite (n : Nat) (v : Word)
  /-- `HostRead(n)` (R72). -/
  | hostRead (n : Nat)
  /-- `Reset` (R300). -/
  | reset
deriving DecidableEq, Repr

/-- The state of AL-I2CM (R20), and after it the model's own fields. -/
structure State where
  /-- `CTRL` (R21). -/
  ctrl : Byte
  /-- `STATUS` (R22). -/
  status : Byte
  /-- `DATA` (R23). -/
  data : Byte
  /-- `BITRATE` (R24). -/
  bitrate : Byte
  /-- `PHASE` (R25). -/
  phase : Phase
  /-- `DIR` (R25). -/
  dir : Dir
  /-- `RESULT` (R27). -/
  result : Byte
  /-- `RXBUF` (R28). -/
  rxbuf : Memory
  /-- `RX_LEN` (R29). -/
  rxLen : Byte
  /-- `IDX` (R30). -/
  idx : Byte
  /-- `CMD` (R31). -/
  cmd : Word
  /-- `HSTAT.OK` (R32). -/
  ok : Bool
  /-- `HSTAT.FAIL` (R32). -/
  fail : Bool
  /-- `HSTAT.BUSY` (R32). -/
  busy : Bool
  /-- `ERR` (R36). -/
  err : Word
  /-- `SPC` (R33). -/
  spc : SLabel
  /-- `TPC` (R34). -/
  tpc : TLabel
  /-- `CYC` (R35). -/
  cyc : Nat
  /-- `CAL[0..11]` (R37). -/
  cal : Calib
  /-- `RAW_T` (R38). -/
  rawT : RawCode
  /-- `RAW_P` (R38). -/
  rawP : RawCode
  /-- `T_FINE` (R39), the 32-bit pattern of a signed value. -/
  tFine : Word
  /-- `TEMP` (R40). -/
  temp : Word
  /-- `PRESS` (R40). -/
  press : Word
  /-- `RD_T` (R41). -/
  rdT : Word
  /-- `RD_P` (R41). -/
  rdP : Word
  /-- `ACC_T` (R42). -/
  accT : Word
  /-- `ACC_P` (R42). -/
  accP : Word
  /-- `HSTAT.CAL_VALID` (R32, R43). -/
  calValid : Bool
  /-- `HSTAT.MEAS_OK` (R32, R43). -/
  measOk : Bool
  /-- `HSTAT.RAWT_VALID` (R32, R43). -/
  rawTValid : Bool
  /-- `HSTAT.RAWP_VALID` (R32, R43). -/
  rawPValid : Bool
  /-- `HSTAT.TFINE_VALID` (R32, R43). -/
  tFineValid : Bool
  /-- `HSTAT.DIVG` (R32). -/
  divg : Bool
  /-- `HIST` (R44), oldest first. -/
  hist : List BusEvent
  /-- MODEL, DESIGN CHOICE: the OPEN parameters of R6, the same in every state of a run (log entry 5). -/
  cfg : Params
  /-- MODEL, DESIGN CHOICE: the environment's coming replies, oldest first (log entry 1). -/
  answers : List Reply
  /-- MODEL, DESIGN CHOICE: the number of bus actions triggered so far (log entry 2). -/
  busCount : Nat
  /-- MODEL, DESIGN CHOICE: what the outside does next, oldest first (log entry 3). -/
  inputs : List Input
  /-- MODEL, DESIGN CHOICE: the values host reads have returned, oldest first (log entry 7). -/
  hostLog : List (Nat × Word)
deriving DecidableEq, Repr

/-- All twelve coefficients 0 (R46). -/
def Calib.zero : Calib :=
  { t1 := 0, t2 := 0, t3 := 0, p1 := 0, p2 := 0, p3 := 0, p4 := 0, p5 := 0, p6 := 0, p7 := 0, p8 := 0, p9 := 0 }

/-- The reset state (R46) of the block with the parameters `cfg`. -/
def State.resetWith (cfg : Params) : State :=
  { ctrl := 0x00, status := 0xF8, data := 0x00, bitrate := 0x00, phase := .idle, dir := .w
    result := 0x00, rxbuf := [], rxLen := 0, idx := 0
    cmd := 0, ok := false, fail := false, busy := false, err := 0
    spc := .s0, tpc := .t0, cyc := 0
    cal := Calib.zero, rawT := 0, rawP := 0, tFine := 0, temp := 0, press := 0
    rdT := 0, rdP := 0, accT := 0, accP := 0
    calValid := false, measOk := false, rawTValid := false, rawPValid := false, tFineValid := false, divg := false
    hist := []
    cfg := cfg, answers := [], busCount := 0, inputs := [], hostLog := [] }

/-- The machine right after reset (R46, R301), with the reference values of the parameters (R6). -/
def State.reset : State := State.resetWith Config.reference

/-- Why the machine stops. -/
inductive Fault where
  /-- Raised by `step` (never by a meaning) when a command hangs on a bus action that never completes and nothing is left
  in `inputs` that could come from outside: the stuck state of R131 and R281. Safe: the hardware does not go on either (DESIGN CHOICE,
  log entry 4). -/
  | hung
deriving DecidableEq, Repr

/-- Why an input has no meaning. -/
inductive Refusal where
  /-- An arm of `exec` whose instruction has no meaning yet. Safe: nothing can be proved of it. No arm raises it. -/
  | notModelled (mnemonic : String)
  /-- Raised by `step` for a host access to an unmapped register number, which R74 gives no step. Safe: the spec gives the
  access neither an effect nor a value (DESIGN CHOICE, log entry 8). -/
  | unmappedRegister (n : Nat)
deriving DecidableEq, Repr

end Sys2Proof.Machine
end

