-- ==== Sys2Proof/Machine/Flags.lean ====
section
/-! DEFINITION. Codes and flag words: the numbers of phases, labels, status codes and error kinds, the status code each
bus event writes (spec/40_bus_primitives.md R139), the error record (spec/10_state.md R36) and HSTAT (R32). -/

namespace Sys2Proof.Machine

open Sys2Proof.Config

/-- The code of a phase (R25). -/
def Phase.code : Phase → BitVec 3
  | .idle => 0
  | .started => 1
  | .addrSent => 2
  | .dataPhase => 3
  | .stopped => 4

/-- The code of a direction (R25). -/
def Dir.code : Dir → BitVec 1
  | .w => 0
  | .r => 1

/-- The code of a sensor-sequencer label (R33). -/
def SLabel.code : SLabel → BitVec 4
  | .s0 => 0
  | .s1 => 1
  | .s2 => 2
  | .s3 => 3
  | .s4 => 4
  | .s5 => 5
  | .s6 => 6
  | .s7 => 7
  | .s8 => 8
  | .s9 => 9

/-- The code of a transaction-sequencer label (R34). -/
def TLabel.code : TLabel → BitVec 4
  | .t0 => 0
  | .t1 => 1
  | .t2 => 2
  | .t3 => 3
  | .t4 => 4
  | .t5 => 5
  | .t6 => 6
  | .t7 => 7
  | .t8 => 8
  | .t9 => 9

/-- The code of an error kind (R270). -/
def ErrKind.code : ErrKind → BitVec 4
  | .none => 0
  | .protocolStatusMismatch => 1
  | .calibrationUnavailable => 2
  | .busTimeout => 3
  | .illegalCommand => 4
  | .notEnabled => 5
  | .sequenceViolation => 6
  | .orderViolation => 7

/-- The value of a status code, as `STATUS & 0xF8` (R139). -/
def StatusCode.byte : StatusCode → Byte
  | .start => 0x08
  | .repStart => 0x10
  | .slaWAck => 0x18
  | .slaWNoack => 0x20
  | .mtDataAck => 0x28
  | .mtDataNoack => 0x30
  | .arbLost => 0x38
  | .slaRAck => 0x40
  | .slaRNoack => 0x48
  | .mrDataAck => 0x50
  | .mrDataNoack => 0x58
  | .noInfo => 0xF8
  | .busError => 0x00

/-- The status of a completed start: a first start if the bus was not owned, else a repeated start (R133). -/
def startCode (owned : Bool) : StatusCode :=
  if owned then .repStart else .start

/-- The event of a completed start (R77, R133). -/
def startEvent (owned : Bool) : BusEvent :=
  if owned then .repStart else .start

/-- The status after an address byte with direction `d` (R136). -/
def addrCode (d : Dir) (ack : Bool) : StatusCode :=
  match d, ack with
  | .w, true => .slaWAck
  | .w, false => .slaWNoack
  | .r, true => .slaRAck
  | .r, false => .slaRNoack

/-- The status after a data byte was sent (R136). -/
def sentCode (ack : Bool) : StatusCode :=
  if ack then .mtDataAck else .mtDataNoack

/-- The status after a byte was received (R137). -/
def recvCode (ack : Bool) : StatusCode :=
  if ack then .mrDataAck else .mrDataNoack

/-- STATUS with the code field replaced (R22, R131): `STATUS[7:3] <- c`, the prescaler bits kept, bit 2 zero (DEDUCED,
log entry 11). -/
def withCode (c : StatusCode) (status : Byte) : Byte :=
  c.byte ||| (status &&& 0x03#8)

/-- STATUS with the prescaler bits replaced (R132): the code kept, bit 2 zero. -/
def withPrescale (ps : BitVec 2) (status : Byte) : Byte :=
  (status &&& 0xF8#8) ||| ps.setWidth 8

/-- What ERR records (R36, R272). `state = idle` (code 0) says "no transaction step". -/
structure ErrInfo where
  kind : ErrKind
  state : Phase
  expected : Byte
  got : Byte
  tpc : TLabel
  spc : SLabel
deriving DecidableEq, Repr

/-- The layout of ERR (R36). -/
def ErrInfo.word (e : ErrInfo) : Word :=
  e.spc.code.setWidth 32 <<< 28 ||| e.tpc.code.setWidth 32 <<< 24 ||| e.got.setWidth 32 <<< 16
    ||| e.expected.setWidth 32 <<< 8 ||| e.state.code.setWidth 32 <<< 4 ||| e.kind.code.setWidth 32

/-- The record of a refusal: the kind, every other field 0 (R274). -/
def ErrInfo.refusal (k : ErrKind) : ErrInfo :=
  { kind := k, state := .idle, expected := 0, got := 0, tpc := .t0, spc := .s0 }

/-- `CTRL.EN` (R21). -/
def State.en (s : State) : Bool := s.ctrl.getLsbD 2

/-- `STATUS & 0xF8` (R22). -/
def State.code (s : State) : Byte := s.status &&& 0xF8#8

/-- The controller is master of the bus (R26). -/
def State.owned (s : State) : Bool :=
  match s.phase with
  | .started => true
  | .addrSent => true
  | .dataPhase => true
  | .idle => false
  | .stopped => false

/-- A flag at bit `n` of a word. -/
def flagBit (b : Bool) (n : Nat) : Word := (BitVec.ofBool b).setWidth 32 <<< n

/-- HSTAT (R32): bit 0 OK, 1 FAIL, 2 EN, 3 CAL_VALID, 4 MEAS_OK, 5 RAWT_VALID, 6 RAWP_VALID, 7 TFINE_VALID, 8 DIVG, 9 BUSY,
12:10 PHASE, 13 DIR, the rest 0. -/
def State.hstat (s : State) : Word :=
  flagBit s.ok 0 ||| flagBit s.fail 1 ||| flagBit s.en 2 ||| flagBit s.calValid 3 ||| flagBit s.measOk 4
    ||| flagBit s.rawTValid 5 ||| flagBit s.rawPValid 6 ||| flagBit s.tFineValid 7 ||| flagBit s.divg 8
    ||| flagBit s.busy 9 ||| s.phase.code.setWidth 32 <<< 10 ||| s.dir.code.setWidth 32 <<< 13

end Sys2Proof.Machine
end

