-- ==== Sys2Proof/Machine/Operands.lean ====
section
/-! DEFINITION. How operands and bytes become values: the address byte (spec/20_memory.md R76), the raw code (R195), the
calibration block (R191) and the conversions into the 32-bit arithmetic (R212). -/

namespace Sys2Proof.Machine

/-- `SLA+W = (dev << 1) | 0` (R76). -/
def slaW (dev : DevAddr) : Byte := dev.setWidth 8 <<< 1

/-- `SLA+R = (dev << 1) | 1` (R76). -/
def slaR (dev : DevAddr) : Byte := dev.setWidth 8 <<< 1 ||| 1#8

/-- The direction an address byte carries in bit 0 (R76, R136). -/
def dirOfAddr (b : Byte) : Dir := if b.getLsbD 0 then .r else .w

/-- `raw20(b0, b1, b2)`: the 24-bit value, first byte most significant, shifted right by 4 (R195). -/
def raw20 (b0 b1 b2 : Byte) : RawCode :=
  ((b0.setWidth 24 <<< 16 ||| b1.setWidth 24 <<< 8 ||| b2.setWidth 24) >>> 4).setWidth 20

/-- A calibration pair, low byte first (R79, R191). -/
def calPair (lo hi : Byte) : BitVec 16 := lo.setWidth 16 ||| hi.setWidth 16 <<< 8

/-- The calibration block: field `k` from bytes `2k` and `2k + 1` (R191). -/
def Calib.ofBytes (b : Nat → Byte) : Calib :=
  { t1 := calPair (b 0) (b 1), t2 := calPair (b 2) (b 3), t3 := calPair (b 4) (b 5)
    p1 := calPair (b 6) (b 7), p2 := calPair (b 8) (b 9), p3 := calPair (b 10) (b 11)
    p4 := calPair (b 12) (b 13), p5 := calPair (b 14) (b 15), p6 := calPair (b 16) (b 17)
    p7 := calPair (b 18) (b 19), p8 := calPair (b 20) (b 21), p9 := calPair (b 22) (b 23) }

/-- The 24 bytes of a coefficient record, low byte of each field first (R191's round trip). -/
def Calib.bytes (c : Calib) : List Byte :=
  [c.t1, c.t2, c.t3, c.p1, c.p2, c.p3, c.p4, c.p5, c.p6, c.p7, c.p8, c.p9].flatMap
    fun v => [v.extractLsb' 0 8, v.extractLsb' 8 8]

/-- A `u20` raw code as an `i32` (R212). -/
def ofRaw (v : RawCode) : Word := v.setWidth 32

/-- A `u16` coefficient as an `i32` (R212). -/
def ofU16 (v : BitVec 16) : Word := v.setWidth 32

/-- An `i16` coefficient as an `i32` (R212). -/
def ofI16 (v : BitVec 16) : Word := v.signExtend 32

/-- What the host reads at register `32 + k` (R37): T1 and P1 zero-extended, the rest sign-extended. -/
def Calib.hostWord (c : Calib) (k : Nat) : Option Word :=
  match k with
  | 0 => some (ofU16 c.t1)
  | 1 => some (ofI16 c.t2)
  | 2 => some (ofI16 c.t3)
  | 3 => some (ofU16 c.p1)
  | 4 => some (ofI16 c.p2)
  | 5 => some (ofI16 c.p3)
  | 6 => some (ofI16 c.p4)
  | 7 => some (ofI16 c.p5)
  | 8 => some (ofI16 c.p6)
  | 9 => some (ofI16 c.p7)
  | 10 => some (ofI16 c.p8)
  | 11 => some (ofI16 c.p9)
  | _ => none

end Sys2Proof.Machine
end

