-- ==== Sys2Proof/Machine/Ops.lean ====
section
/-! DEFINITION. The named operations over buffer and registers: RXBUF access, the host register map (spec/20_memory.md
R71 to R74), the command frame (R130), failing a command (R274, R275) and returning to the host (R276). -/

namespace Sys2Proof.Machine

open Sys2Proof.Config

/-! ### RXBUF (R28), a canonical sparse buffer -/

/-- One byte of a buffer; an unlisted entry reads `0x00` (R46). -/
def Memory.read : Memory → Nat → Byte
  | [], _ => 0#8
  | (a, b) :: rest, n => if n = a then b else Memory.read rest n

/-- Write one byte, keeping the canonical form: a zero is not listed. -/
def Memory.write : Memory → Nat → Byte → Memory
  | [], n, v => if v = 0#8 then [] else [(n, v)]
  | (a, b) :: rest, n, v =>
    if n < a then (if v = 0#8 then (a, b) :: rest else (n, v) :: (a, b) :: rest)
    else if n = a then (if v = 0#8 then rest else (n, v) :: rest)
    else (a, b) :: Memory.write rest n v

/-- `RXBUF_N` (R6): entries 0 to 254. -/
def rxbufSize : Nat := 255

/-- The canonical form from address `lo` on: strictly rising, below `RXBUF_N`, no listed zero. -/
def Memory.wfFrom : Nat → Memory → Bool
  | _, [] => true
  | lo, (a, b) :: rest => decide (lo ≤ a) && decide (a < rxbufSize) && (b != 0#8) && Memory.wfFrom (a + 1) rest

/-- The canonical form of RXBUF. -/
def Memory.wf (m : Memory) : Bool := Memory.wfFrom 0 m

/-! ### The host register space (R70 to R74) -/

/-- `HostRead(n)`: the last column of R71; `none` for an unmapped number (R74). -/
def State.hostRead (s : State) (n : Nat) : Option Word :=
  match n with
  | 0 => some s.cmd
  | 1 => some s.hstat
  | 2 => some s.err
  | 3 => some (s.result.setWidth 32)
  | 4 => some (s.ctrl.setWidth 32)
  | 5 => some (s.status.setWidth 32)
  | 6 => some (s.data.setWidth 32)
  | 7 => some (s.bitrate.setWidth 32)
  | 8 => some (s.rxLen.setWidth 32)
  | 9 => some (s.rawT.setWidth 32)
  | 10 => some (s.rawP.setWidth 32)
  | 11 => some s.tFine
  | 12 => some s.temp
  | 13 => some s.press
  | 14 => some s.rdT
  | 15 => some s.rdP
  | 16 => some s.accT
  | 17 => some s.accP
  | n => if 32 ≤ n ∧ n ≤ 43 then s.cal.hostWord (n - 32)
         else if 256 ≤ n ∧ n ≤ 510 then some ((s.rxbuf.read (n - 256)).setWidth 32)
         else none

/-- `HostWrite(n, v)` for `n != 0` (R73): the two seed registers are written, a write to another mapped register has no
effect; `none` for an unmapped number (R74). -/
def State.hostWrite (s : State) (n : Nat) (v : Word) : Option State :=
  match n with
  | 14 => some { s with rdT := v }
  | 15 => some { s with rdP := v }
  | n => (s.hostRead n).map fun _ => s

/-! ### The command frame (R130) -/

/-- The frame's opening: `OK`, `FAIL`, `ERR` cleared, `BUSY` set, the labels at `(S0, T0)`. -/
def State.beginCommand (s : State) : State :=
  { s with ok := false, fail := false, err := 0#32, busy := true, spc := .s0, tpc := .t0 }

/-- The frame's close in success: `OK` set, `BUSY` cleared. -/
def State.succeed (s : State) : State := { s with ok := true, busy := false }

/-- TAKING AN ERROR, the one shared operation: `ERR` is written, `FAIL` set, `BUSY` cleared and the labels go back to
`(S0, T0)` (R274, R275). It is also the return: the controller is idle and the host goes on (R276). -/
def State.failWith (s : State) (e : ErrInfo) : State :=
  { s with err := e.word, fail := true, busy := false, spc := .s0, tpc := .t0 }

/-- `refuse K` (R274). -/
def State.refuse (s : State) (k : ErrKind) : State := s.failWith (ErrInfo.refusal k)

/-- How the body of a command ends: it goes on (or has ended in success), it has failed, or it hangs (R281). -/
inductive Run where
  | done (s : State)
  | failed (s : State)
  | hung (s : State)
deriving DecidableEq, Repr

/-- Go on with `k` after a part that is done; a failure or a hang ends the command there (R168, R275). -/
def Run.andThen : Run → (State → Run) → Run
  | .done s, k => k s
  | .failed s, _ => .failed s
  | .hung s, _ => .hung s

/-- A precondition: the flag that must be 1, and the kind of the refusal while it is 0. -/
abbrev Check := Bool × ErrKind

/-- The first check that fails decides the kind (R274). -/
def firstRefusal : List Check → Option ErrKind
  | [] => none
  | (holds, k) :: rest => if holds then firstRefusal rest else some k

/-- What the host sees of a body's end (R130, R281): a hang leaves the state of the unfinished command, `BUSY` still 1. -/
def Run.outcome : Run → Host.Outcome State Fault Refusal
  | .done s => .next s.succeed
  | .failed s => .next s
  | .hung s => .next s

/-- A command inside its frame (R130): the frame opens, the checks are made in order, the body runs. -/
def runCommand (checks : State → List Check) (body : State → Run) (s : State) : Host.Outcome State Fault Refusal :=
  match firstRefusal (checks s.beginCommand) with
  | some k => .next (s.beginCommand.refuse k)
  | none => (body s.beginCommand).outcome

/-- Check 2 of R274: every command but INIT needs `CTRL.EN = 1`. -/
def State.needsEnable (s : State) : Check := (s.en, .notEnabled)

/-- Check 3 of R274: the command consumes the coefficients. -/
def State.needsCalibration (s : State) : Check := (s.calValid, .calibrationUnavailable)

end Sys2Proof.Machine
end

