-- ==== Sys2Proof/Machine/Compensation.lean ====
section
/-! DEFINITION. The compensation engine: `comp_T`, `comp_P` and the commands CMPT, CMPP (spec/43_compensation.md R213 to
R220; the pressure body as R218 gives it, DESIGN CHOICE, log entry 14). -/

namespace Sys2Proof.Machine

/-- `t_fine` of `comp_T` (R213). -/
def compTFine (raw : RawCode) (t1 t2 t3 : BitVec 16) : Word :=
  let x1 := sub32 (asr32 (ofRaw raw) 3) (shl32 (ofU16 t1) 1)
  let var1 := asr32 (mul32 x1 (ofI16 t2)) 11
  let d := sub32 (asr32 (ofRaw raw) 4) (ofU16 t1)
  let sq := mul32 d d
  let var2 := asr32 (mul32 (asr32 sq 12) (ofI16 t3)) 14
  add32 var1 var2

/-- The temperature in hundredths of a degree from `t_fine` (R213). -/
def compTemp (tFine : Word) : Word := asr32 (add32 (mul32 tFine 5#32) 128#32) 8

/-- The offset term `b3` of `comp_P` (R218, PressPoly part 1). -/
def pressOffset (tFine : Word) (c : Calib) : Word :=
  let a1 := sub32 (asr32 tFine 1) 64000#32
  let q := mul32 (asr32 a1 2) (asr32 a1 2)
  let b1 := mul32 (asr32 q 11) (ofI16 c.p6)
  let b2 := add32 b1 (shl32 (mul32 a1 (ofI16 c.p5)) 1)
  add32 (asr32 b2 2) (shl32 (ofI16 c.p4) 16)

/-- The denominator `a3` of `comp_P` (R218, PressPoly part 1). -/
def pressDenominator (tFine : Word) (c : Calib) : Word :=
  let a1 := sub32 (asr32 tFine 1) 64000#32
  let q := mul32 (asr32 a1 2) (asr32 a1 2)
  let a2 := asr32 (add32 (asr32 (mul32 (ofI16 c.p3) (asr32 q 13)) 3) (asr32 (mul32 (ofI16 c.p2) a1) 1)) 18
  asr32 (mul32 (add32 32768#32 a2) (ofU16 c.p1)) 15

/-- The scaled numerator `p1` of `comp_P` (R218, PressPoly part 2). -/
def pressNumerator (raw : RawCode) (tFine : Word) (c : Calib) : Word :=
  umul32 (usub32 (sub32 1048576#32 (ofRaw raw)) (asr32 (pressOffset tFine c) 12)) 3125#32

/-- The branch at 2^31 (R217 (3), R218): shift then divide, or divide then multiply by 2. -/
def pressQuotient (p1 a3 : Word) : Word :=
  if p1.toNat < 0x80000000 then udiv32 (ushl32 p1 1) a3 else umul32 (udiv32 p1 a3) 2#32

/-- The correction after the division (R218, PressPoly part 3). -/
def pressCorrect (p2 : Word) (c : Calib) : Word :=
  let c1 := asr32 (mul32 (ofI16 c.p9) (ushr32 (umul32 (ushr32 p2 3) (ushr32 p2 3)) 13)) 12
  let c2 := asr32 (mul32 (ushr32 p2 2) (ofI16 c.p8)) 13
  add32 p2 (asr32 (add32 (add32 c1 c2) (ofI16 c.p7)) 4)

/-- `comp_P` (R217, R218): the pressure, and whether the division guard was taken. -/
def compP (raw : RawCode) (tFine : Word) (c : Calib) : Word × Bool :=
  if pressDenominator tFine c = 0#32 then (0#32, true)
  else (pressCorrect (pressQuotient (pressNumerator raw tFine c) (pressDenominator tFine c)) c, false)

/-- The CMPT step (R215). -/
def cmptStep (s : State) : Run :=
  .done { s with
    temp := compTemp (compTFine s.rawT s.cal.t1 s.cal.t2 s.cal.t3)
    tFine := compTFine s.rawT s.cal.t1 s.cal.t2 s.cal.t3
    tFineValid := true }

/-- The CMPP step (R219). -/
def cmppStep (s : State) : Run :=
  .done { s with
    press := (compP s.rawP s.tFine s.cal).1
    divg := (compP s.rawP s.tFine s.cal).2 }

/-- `CMPT` (R215): the checks in R215's order. -/
def execCmpt (s : State) : Host.Outcome State Fault Refusal :=
  runCommand (fun s => [s.needsEnable, s.needsCalibration, (s.rawTValid, .orderViolation)]) cmptStep s

/-- `CMPP` (R219): the checks in R219's order. -/
def execCmpp (s : State) : Host.Outcome State Fault Refusal :=
  runCommand (fun s => [s.needsEnable, s.needsCalibration, (s.rawPValid && s.tFineValid, .orderViolation)]) cmppStep s

end Sys2Proof.Machine
end

