-- ==== Sys2Proof/Machine/Bus.lean ====
section
/-! DEFINITION. The bus engine: the blocking wait (spec/40_bus_primitives.md R131), the environment's reply
(spec/20_memory.md R75) and the four bus actions (R133, R135, R136, R137). -/

namespace Sys2Proof.Machine

open Sys2Proof.Config

/-! ### The environment's reply to the action being triggered (R75)

The next entry of `answers` is the reply when the action's outcome set contains it; else the reply is free (DESIGN CHOICE,
log entry 1). -/

/-- A start answers with `Done`, `BusErr` or `Never`. -/
def Reply.toStart : Reply → Option StartReply
  | .done => some .done
  | .busErr => some .busErr
  | .never => some .never
  | _ => none

/-- A send answers with `Ack`, `Nack`, `ArbLost`, `BusErr` or `Never`. -/
def Reply.toSend : Reply → Option SendReply
  | .ack => some .ack
  | .nack => some .nack
  | .arbLost => some .arbLost
  | .busErr => some .busErr
  | .never => some .never
  | _ => none

/-- A receive answers with `Byte(v)`, `ArbLost`, `BusErr` or `Never`. -/
def Reply.toRecv : Reply → Option RecvReply
  | .byte v => some (.byte v)
  | .arbLost => some .arbLost
  | .busErr => some .busErr
  | .never => some .never
  | _ => none

/-- A stop answers with `Done` or `Never`. -/
def Reply.toStop : Reply → Option StopReply
  | .done => some .done
  | .never => some .never
  | _ => none

/-- The outcome of a `BusStart()` triggered now. -/
def State.startReply (s : State) : StartReply :=
  (s.answers.head?.bind Reply.toStart).getD (Config.startReply s.busCount s.hist)

/-- The outcome of a `BusSend(b)` triggered now. -/
def State.sendReply (s : State) (b : Byte) : SendReply :=
  (s.answers.head?.bind Reply.toSend).getD (Config.sendReply s.busCount s.hist b)

/-- The outcome of a `BusRecv(ack)` triggered now. -/
def State.recvReply (s : State) (ack : Bool) : RecvReply :=
  (s.answers.head?.bind Reply.toRecv).getD (Config.recvReply s.busCount s.hist ack)

/-- The outcome of an owned `BusStop()` triggered now. -/
def State.stopReply (s : State) : StopReply :=
  (s.answers.head?.bind Reply.toStop).getD (Config.stopReply s.busCount s.hist)

/-! ### Trigger, completion, wait (R131) -/

/-- The trigger: CTRL takes the request value, the status becomes `NO_INFO`. -/
def State.trigger (s : State) (ctrl : Byte) : State :=
  { s with ctrl := ctrl, status := withCode .noInfo s.status }

/-- The environment has been asked once more. -/
def State.asked (s : State) : State :=
  { s with answers := s.answers.tail, busCount := s.busCount + 1 }

/-- A completed start, send or receive: status, phase, direction and history as the command's rule says, and
`CTRL.INT <- 1`. -/
def State.complete (s : State) (c : StatusCode) (p : Phase) (d : Dir) (e : BusEvent) : State :=
  { s with status := withCode c s.status, phase := p, dir := d, hist := s.hist ++ [e], ctrl := s.ctrl ||| 0x80#8 }

/-- How a blocking wait ends. -/
inductive Waited where
  | completed (s : State)
  | timedOut (s : State)
  | hung (s : State)
deriving DecidableEq, Repr

/-- The outcome `Never` (R131): the wait does not end, or gives up when `WAIT_LIMIT` is finite. The state is as the
trigger left it. -/
def State.unanswered (s : State) : Waited :=
  match s.cfg.waitLimit with
  | .inf => .hung s
  | .finite _ => .timedOut s

/-! ### The four bus actions -/

/-- `BusStart()` (R133). -/
def busStart (s : State) : Waited :=
  match s.startReply with
  | .done => .completed ((s.trigger 0x24#8).asked.complete (startCode s.owned) .started .w (startEvent s.owned))
  | .busErr => .completed ((s.trigger 0x24#8).asked.complete .busError .idle .w .busErr)
  | .never => (s.trigger 0x24#8).asked.unanswered

/-- The state of `BusSend(b)` after its trigger (R136): `DATA <- b` comes first. -/
def State.sendTriggered (s : State) (b : Byte) : State :=
  ({ s with data := b }.trigger 0x04#8).asked

/-- A byte was sent and answered: an address byte after a start, else a data byte (R136). -/
def State.sent (s : State) (b : Byte) (ack : Bool) : State :=
  match s.phase with
  | .started => s.complete (addrCode (dirOfAddr b) ack) .addrSent (dirOfAddr b) (.tx b ack)
  | .idle => s.complete (sentCode ack) .dataPhase s.dir (.tx b ack)
  | .addrSent => s.complete (sentCode ack) .dataPhase s.dir (.tx b ack)
  | .dataPhase => s.complete (sentCode ack) .dataPhase s.dir (.tx b ack)
  | .stopped => s.complete (sentCode ack) .dataPhase s.dir (.tx b ack)

/-- `BusSend(b)` (R136). -/
def busSend (b : Byte) (s : State) : Waited :=
  match s.sendReply b with
  | .ack => .completed ((s.sendTriggered b).sent b true)
  | .nack => .completed ((s.sendTriggered b).sent b false)
  | .arbLost => .completed ((s.sendTriggered b).complete .arbLost .idle .w .arbLost)
  | .busErr => .completed ((s.sendTriggered b).complete .busError .idle .w .busErr)
  | .never => (s.sendTriggered b).unanswered

/-- The trigger value of a receive (R137). -/
def recvCtrl (ack : Bool) : Byte := if ack then 0x44#8 else 0x04#8

/-- `BusRecv(ack)` (R137). -/
def busRecv (ack : Bool) (s : State) : Waited :=
  match s.recvReply ack with
  | .byte v =>
    .completed ({ (s.trigger (recvCtrl ack)).asked with data := v, result := v }.complete
      (recvCode ack) .dataPhase s.dir (.rx v ack))
  | .arbLost => .completed ((s.trigger (recvCtrl ack)).asked.complete .arbLost .idle .w .arbLost)
  | .busErr => .completed ((s.trigger (recvCtrl ack)).asked.complete .busError .idle .w .busErr)
  | .never => (s.trigger (recvCtrl ack)).asked.unanswered

/-- The end of a stop (R135): `CTRL.STO <- 0`, the bus released. -/
def State.released (s : State) : State :=
  { s with ctrl := s.ctrl &&& 0xEF#8, phase := .stopped, dir := .w }

/-- `BusStop()` (R135): no bus action and no event when the bus is not owned. -/
def busStop (s : State) : Waited :=
  if s.owned then
    match s.stopReply with
    | .done => .completed { (s.trigger 0x14#8).asked with hist := s.hist ++ [BusEvent.stop] }.released
    | .never => (s.trigger 0x14#8).asked.unanswered
  else .completed (s.trigger 0x14#8).released

end Sys2Proof.Machine
end

