-- ==== Sys2Proof/Machine/Transactions.lean ====
section
/-! DEFINITION. The transaction sequencer: the step table (spec/41_bus_transactions.md R161), the expectation check
(R160), the abort (R165), and the commands WREG, RREG, RBURST (R162 to R164). -/

namespace Sys2Proof.Machine

open Sys2Proof.Config

/-- The status code a step requires (R161); T9 checks none. -/
def TLabel.expected : TLabel → Option StatusCode
  | .t0 => none
  | .t1 => some .start
  | .t2 => some .slaWAck
  | .t3 => some .mtDataAck
  | .t4 => some .mtDataAck
  | .t5 => some .repStart
  | .t6 => some .slaRAck
  | .t7 => some .mrDataAck
  | .t8 => some .mrDataNoack
  | .t9 => none

/-- The phase recorded in `ERR.STATE` for a failure at a step (R161 `st`). -/
def TLabel.errState : TLabel → Phase
  | .t0 => .idle
  | .t1 => .started
  | .t2 => .addrSent
  | .t3 => .dataPhase
  | .t4 => .dataPhase
  | .t5 => .started
  | .t6 => .addrSent
  | .t7 => .dataPhase
  | .t8 => .dataPhase
  | .t9 => .stopped

/-- The abort of a transaction (R165, R275, R277): `ERR` is written; under `STOP_ON_ABORT` a stop follows, whose own
timeout is dropped and whose hang hangs the command; then the command has failed. DEDUCED (log entry 9): a
stop that hangs leaves ERR written. -/
def abortTransaction (e : ErrInfo) (s : State) : Run :=
  if s.cfg.stopOnAbort then
    match busStop { s with err := e.word } with
    | .completed s' => .failed (s'.failWith e)
    | .timedOut s' => .failed (s'.failWith e)
    | .hung s' => .hung s'
  else .failed (s.failWith e)

/-- The record of a status mismatch at the step in progress (R160, R272). `kind` is `ProtocolStatusMismatch`, or
`CalibrationUnavailable` inside the calibration read (R165). -/
def State.mismatchAt (s : State) (kind : ErrKind) (expected : StatusCode) : ErrInfo :=
  { kind := kind, state := s.tpc.errState, expected := expected.byte, got := s.code, tpc := s.tpc, spc := s.spc }

/-- The record of a timeout at the step in progress (R165, R272). -/
def State.timeoutAt (s : State) : ErrInfo :=
  { kind := .busTimeout, state := s.tpc.errState, expected := 0, got := 0, tpc := s.tpc, spc := s.spc }

/-- `expect(c, st)` for the step in progress (R160). -/
def expectCode (kind : ErrKind) (s : State) : Run :=
  match s.tpc.expected with
  | none => .done s
  | some c => if s.code = c.byte then .done s else abortTransaction (s.mismatchAt kind c) s

/-- One step of the sequencer (R160): the label, the bus action with its wait, the check. -/
def seqStep (kind : ErrKind) (label : TLabel) (action : State → Waited) (s : State) : Run :=
  match action { s with tpc := label } with
  | .completed s' => expectCode kind s'
  | .timedOut s' => abortTransaction s'.timeoutAt s'
  | .hung s' => .hung s'

/-- T1 to T3, the addressing preamble of every transaction (R161). -/
def preamble (kind : ErrKind) (dev : DevAddr) (reg : Byte) (s : State) : Run :=
  (seqStep kind .t1 busStart s).andThen fun s =>
  (seqStep kind .t2 (busSend (slaW dev)) s).andThen fun s =>
  seqStep kind .t3 (busSend reg) s

/-- `RXBUF[IDX] <- DATA ; IDX <- IDX + 1` (R161, T7 and T8). -/
def State.storeByte (s : State) : State :=
  { s with rxbuf := s.rxbuf.write s.idx.toNat s.data, idx := s.idx + 1#8 }

/-- A receive step: T7 with ACK or T8 with NACK, then the store, after the check has passed (R161). -/
def recvStep (kind : ErrKind) (label : TLabel) (ack : Bool) (s : State) : Run :=
  (seqStep kind label (busRecv ack) s).andThen fun s => .done s.storeByte

/-- `n` times T7 (R161, R164): the loop `while IDX < count - 1` entered with `IDX = 0` and `count - 1 = n`. -/
def recvAcked (kind : ErrKind) : Nat → State → Run
  | 0, s => .done s
  | n + 1, s => (recvStep kind .t7 true s).andThen (recvAcked kind n)

/-- `MemWrite((dev, reg), 1, v)`: the write transaction T1, T2, T3, T4, T9 (R162). -/
def memWrite (dev : DevAddr) (reg v : Byte) (s : State) : Run :=
  (preamble .protocolStatusMismatch dev reg s).andThen fun s =>
  (seqStep .protocolStatusMismatch .t4 (busSend v) s).andThen fun s =>
  (seqStep .protocolStatusMismatch .t9 busStop s).andThen fun s =>
  .done { s with tpc := .t0 }

/-- `MemRead((dev, reg), count)`: the read transaction T1, T2, T3, T5, T6, T7 `count - 1` times, T8, T9 (R164). -/
def memRead (kind : ErrKind) (dev : DevAddr) (reg count : Byte) (s : State) : Run :=
  (preamble kind dev reg { s with rxLen := 0#8, idx := 0#8 }).andThen fun s =>
  (seqStep kind .t5 busStart s).andThen fun s =>
  (seqStep kind .t6 (busSend (slaR dev)) s).andThen fun s =>
  (recvAcked kind (count.toNat - 1) s).andThen fun s =>
  (recvStep kind .t8 false s).andThen fun s =>
  (seqStep kind .t9 busStop s).andThen fun s =>
  .done { s with rxLen := count, tpc := .t0 }

/-- `WREG dev, reg, value` (R162). -/
def execWreg (dev : DevAddr) (reg value : Byte) (s : State) : Host.Outcome State Fault Refusal :=
  runCommand (fun s => [s.needsEnable]) (memWrite dev reg value) s

/-- `RREG dev, reg` (R163): the read transaction with `count = 1`. -/
def execRreg (dev : DevAddr) (reg : Byte) (s : State) : Host.Outcome State Fault Refusal :=
  runCommand (fun s => [s.needsEnable]) (memRead .protocolStatusMismatch dev reg 1#8) s

/-- `RBURST dev, reg, count` (R164); `count = 0` is an illegal word, and that check comes first (R104, R274;
DESIGN CHOICE, log entry 12). -/
def execRburst (dev : DevAddr) (reg count : Byte) (s : State) : Host.Outcome State Fault Refusal :=
  runCommand (fun s => [(count != 0#8, .illegalCommand), s.needsEnable])
    (memRead .protocolStatusMismatch dev reg count) s

end Sys2Proof.Machine
end

