-- ==== Sys2Proof/Machine/Sensor.lean ====
section
/-! DEFINITION. Sensor access: the steps and commands LDCAL, REQM, RDRT, RDRP (spec/42_sensor_access.md R190 to R196). -/

namespace Sys2Proof.Machine

/-- `CAL_REG` (R6, R78). -/
def calReg : Byte := 0x88

/-- `CAL_LEN` (R6, R78). -/
def calLen : Byte := 24

/-- `CTRL_REG` (R6, R78). -/
def measReg : Byte := 0xF4

/-- `CTRL_VAL` (R6, R78). -/
def measVal : Byte := 0x25

/-- `PRESS_REG` (R6, R78). -/
def pressReg : Byte := 0xF7

/-- `TEMP_REG` (R6, R78). -/
def tempReg : Byte := 0xFA

/-- `RAW_LEN` (R6, R78). -/
def rawLen : Byte := 3

/-- The LDCAL step (R190): the burst, then all twelve coefficients at once. -/
def ldcalStep (dev : DevAddr) (s : State) : Run :=
  (memRead .calibrationUnavailable dev calReg calLen s).andThen fun s =>
  .done { s with cal := Calib.ofBytes s.rxbuf.read, calValid := true }

/-- The REQM step (R192): it opens a new reading cycle before the bus is touched. -/
def reqmStep (dev : DevAddr) (s : State) : Run :=
  (memWrite dev measReg measVal
    { s with measOk := false, rawTValid := false, rawPValid := false, tFineValid := false }).andThen fun s =>
  .done { s with measOk := true }

/-- The RDRT step (R193). -/
def rdrtStep (dev : DevAddr) (s : State) : Run :=
  (memRead .protocolStatusMismatch dev tempReg rawLen { s with rawTValid := false }).andThen fun s =>
  .done { s with rawT := raw20 (s.rxbuf.read 0) (s.rxbuf.read 1) (s.rxbuf.read 2), rawTValid := true }

/-- The RDRP step (R194). -/
def rdrpStep (dev : DevAddr) (s : State) : Run :=
  (memRead .protocolStatusMismatch dev pressReg rawLen { s with rawPValid := false }).andThen fun s =>
  .done { s with rawP := raw20 (s.rxbuf.read 0) (s.rxbuf.read 1) (s.rxbuf.read 2), rawPValid := true }

/-- `LDCAL dev` (R190). -/
def execLdcal (dev : DevAddr) (s : State) : Host.Outcome State Fault Refusal :=
  runCommand (fun s => [s.needsEnable]) (ldcalStep dev) s

/-- `REQM dev` (R192). -/
def execReqm (dev : DevAddr) (s : State) : Host.Outcome State Fault Refusal :=
  runCommand (fun s => [s.needsEnable]) (reqmStep dev) s

/-- `RDRT dev` (R193). -/
def execRdrt (dev : DevAddr) (s : State) : Host.Outcome State Fault Refusal :=
  runCommand (fun s => [s.needsEnable, (s.measOk, .orderViolation)]) (rdrtStep dev) s

/-- `RDRP dev` (R194). -/
def execRdrp (dev : DevAddr) (s : State) : Host.Outcome State Fault Refusal :=
  runCommand (fun s => [s.needsEnable, (s.measOk, .orderViolation)]) (rdrpStep dev) s

end Sys2Proof.Machine
end

