-- ==== Sys2Proof/Machine/Cycles.lean ====
section
/-! DEFINITION. The sensor sequencer and the composite commands SREAD, SINIT (spec/44_measurement_cycles.md R250 to
R255). -/

namespace Sys2Proof.Machine

/-- `NCYC` (R6): the measurement cycles of SINIT. -/
def warmupCycles : Nat := 10

/-- The step `label` of the sensor sequencer: `SPC` names it while `step` runs (R250). A failure inside it fails the
composite command with the record that step wrote (R255). -/
def sensorStep (label : SLabel) (step : State → Run) (s : State) : Run :=
  step { s with spc := label }

/-- S9 of SREAD (R252): both fields of the Reading at once. -/
def commitReading (s : State) : Run := .done { s with rdT := s.temp, rdP := s.press }

/-- S9 of SINIT (R253): both fields of the Reading at once. -/
def commitAverages (s : State) : Run := .done { s with rdT := s.accT, rdP := s.accP }

/-- S5 (R253, R254). -/
def averageTemperature (s : State) : Run := .done { s with accT := avg s.accT s.temp }

/-- S8 (R253, R254). -/
def averagePressure (s : State) : Run := .done { s with accP := avg s.accP s.press, cyc := s.cyc + 1 }

/-- The end of a composite command: `SPC <- S0` (R252, R253). -/
def sensorIdle (s : State) : Run := .done { s with spc := .s0 }

/-- The body of SREAD: S2, S3, S4, S6, S7, S9 (R252). -/
def sreadBody (dev : DevAddr) (s : State) : Run :=
  (sensorStep .s2 (reqmStep dev) s).andThen fun s =>
  (sensorStep .s3 (rdrtStep dev) s).andThen fun s =>
  (sensorStep .s4 cmptStep s).andThen fun s =>
  (sensorStep .s6 (rdrpStep dev) s).andThen fun s =>
  (sensorStep .s7 cmppStep s).andThen fun s =>
  (sensorStep .s9 commitReading s).andThen sensorIdle

/-- One cycle of SINIT: S2, S3, S4, S5, S6, S7, S8 (R253). -/
def warmupCycle (dev : DevAddr) (s : State) : Run :=
  (sensorStep .s2 (reqmStep dev) s).andThen fun s =>
  (sensorStep .s3 (rdrtStep dev) s).andThen fun s =>
  (sensorStep .s4 cmptStep s).andThen fun s =>
  (sensorStep .s5 averageTemperature s).andThen fun s =>
  (sensorStep .s6 (rdrpStep dev) s).andThen fun s =>
  (sensorStep .s7 cmppStep s).andThen fun s =>
  sensorStep .s8 averagePressure s

/-- `n` cycles: the loop `until CYC == 10` entered with `CYC = 0` and `n = 10` (R253). -/
def warmup (dev : DevAddr) : Nat → State → Run
  | 0, s => .done s
  | n + 1, s => (warmupCycle dev s).andThen (warmup dev n)

/-- The accumulators take the seed once the calibration step has passed (R250 S1, R253). -/
def loadSeed (s : State) : Run := .done { s with accT := s.rdT, accP := s.rdP, cyc := 0 }

/-- The body of SINIT (R253). -/
def sinitBody (dev : DevAddr) (s : State) : Run :=
  (sensorStep .s1 (ldcalStep dev) s).andThen fun s =>
  (loadSeed s).andThen fun s =>
  (warmup dev warmupCycles s).andThen fun s =>
  (sensorStep .s9 commitAverages s).andThen sensorIdle

/-- `SINIT dev` (R253). -/
def execSinit (dev : DevAddr) (s : State) : Host.Outcome State Fault Refusal :=
  runCommand (fun s => [s.needsEnable]) (sinitBody dev) s

/-- `SREAD dev` (R252). -/
def execSread (dev : DevAddr) (s : State) : Host.Outcome State Fault Refusal :=
  runCommand (fun s => [s.needsEnable, s.needsCalibration]) (sreadBody dev) s

end Sys2Proof.Machine
end

