-- ==== Sys2Proof/Machine/Primitives.lean ====
section
/-! DEFINITION. The seven bus-engine primitives (spec/40_bus_primitives.md R132 to R138). -/

namespace Sys2Proof.Machine

open Sys2Proof.Config

/-- A primitive's bus action as the body of its command: it succeeds whatever status results (R133, R136, R137), and a
timeout is an abort with no transaction step and no stop (R272, R275). -/
def primitive (action : State → Waited) (s : State) : Run :=
  match action s with
  | .completed s' => .done s'
  | .timedOut s' => .failed (s'.failWith
      { kind := .busTimeout, state := .idle, expected := 0, got := 0, tpc := s'.tpc, spc := s'.spc })
  | .hung s' => .hung s'

/-- The body of INIT (R132): BITRATE, STATUS.PS and CTRL.EN. -/
def initBody (s : State) : Run :=
  .done { s with
    bitrate := s.cfg.bitrateInit
    status := withPrescale s.cfg.prescaleInit s.status
    ctrl := s.ctrl ||| 0x04#8 }

/-- A WRB has a meaning in this phase (R136, R140). -/
def State.mayWrite (s : State) : Bool :=
  s.owned && (s.phase == .started || s.dir == .w)

/-- An RDB has a meaning in this phase (R137, R140). -/
def State.mayRead (s : State) : Bool :=
  (s.phase == .addrSent || s.phase == .dataPhase) && s.dir == .r

/-- `INIT` (R132): no precondition. -/
def execInit (s : State) : Host.Outcome State Fault Refusal :=
  runCommand (fun _ => []) initBody s

/-- `START` (R133). -/
def execStart (s : State) : Host.Outcome State Fault Refusal :=
  runCommand (fun s => [s.needsEnable]) (primitive busStart) s

/-- `RSTART` (R134): the same action as START. -/
def execRstart (s : State) : Host.Outcome State Fault Refusal :=
  runCommand (fun s => [s.needsEnable]) (primitive busStart) s

/-- `STOP` (R135). -/
def execStop (s : State) : Host.Outcome State Fault Refusal :=
  runCommand (fun s => [s.needsEnable]) (primitive busStop) s

/-- `WRB byte` (R136). -/
def execWrb (byte : Byte) (s : State) : Host.Outcome State Fault Refusal :=
  runCommand (fun s => [s.needsEnable, (s.mayWrite, .sequenceViolation)]) (primitive (busSend byte)) s

/-- `RDB ack` (R137). -/
def execRdb (ack : Bool) (s : State) : Host.Outcome State Fault Refusal :=
  runCommand (fun s => [s.needsEnable, (s.mayRead, .sequenceViolation)]) (primitive (busRecv ack)) s

/-- `STAT` (R138). -/
def execStat (s : State) : Host.Outcome State Fault Refusal :=
  runCommand (fun s => [s.needsEnable]) (fun s => .done { s with result := s.code }) s

end Sys2Proof.Machine
end

