-- ==== Sys2Proof/Machine/Dispatch.lean ====
section
/-! DEFINITION. The dispatch: one arm per command, each a direct call of its meaning. -/

namespace Sys2Proof.Machine

def exec (i : Instr) (s : State) : Host.Outcome State Fault Refusal :=
  match i with
  -- bus-engine primitives (spec/40_bus_primitives.md)
  | .init => Sys2Proof.Machine.execInit s
  | .start => Sys2Proof.Machine.execStart s
  | .rstart => Sys2Proof.Machine.execRstart s
  | .stop => Sys2Proof.Machine.execStop s
  | .wrb byte => Sys2Proof.Machine.execWrb byte s
  | .rdb ack => Sys2Proof.Machine.execRdb ack s
  | .stat => Sys2Proof.Machine.execStat s
  -- transactions (spec/41_bus_transactions.md)
  | .wreg dev reg value => Sys2Proof.Machine.execWreg dev reg value s
  | .rreg dev reg => Sys2Proof.Machine.execRreg dev reg s
  | .rburst dev reg count => Sys2Proof.Machine.execRburst dev reg count s
  -- sensor access (spec/42_sensor_access.md)
  | .ldcal dev => Sys2Proof.Machine.execLdcal dev s
  | .reqm dev => Sys2Proof.Machine.execReqm dev s
  | .rdrt dev => Sys2Proof.Machine.execRdrt dev s
  | .rdrp dev => Sys2Proof.Machine.execRdrp dev s
  -- compensation (spec/43_compensation.md)
  | .cmpt => Sys2Proof.Machine.execCmpt s
  | .cmpp => Sys2Proof.Machine.execCmpp s
  -- measurement cycles (spec/44_measurement_cycles.md)
  | .sinit dev => Sys2Proof.Machine.execSinit dev s
  | .sread dev => Sys2Proof.Machine.execSread dev s

end Sys2Proof.Machine
end

