-- ==== Sys2Proof/WellFormed.lean ====
section
/-! DEFINITION. Which terms of `Instr` are commands: every operand has its field's width by its type, and the one
remaining check is RBURST's count (spec/30_encoding.md R103, R104). -/

namespace Sys2Proof

/-- The operands are legal: `RBURST` has `count != 0` (R103, R104); no other command has a check. -/
def Instr.wf : Instr → Bool
  | .init => true
  | .start => true
  | .rstart => true
  | .stop => true
  | .wrb _ => true
  | .rdb _ => true
  | .stat => true
  | .wreg _ _ _ => true
  | .rreg _ _ => true
  | .rburst _ _ count => count != 0#8
  | .ldcal _ => true
  | .reqm _ => true
  | .rdrt _ => true
  | .rdrp _ => true
  | .cmpt => true
  | .cmpp => true
  | .sinit _ => true
  | .sread _ => true

end Sys2Proof
end

