-- ==== Sys2Proof/Decode.lean ====
section
/-! DEFINITION. From a command word to a command and back (spec/30_encoding.md R100 to R104), and the opcode map as rows
of mask and match (R103). -/

namespace Sys2Proof

/-! ### The fields of the one format `CW` (R101) -/

/-- `op`, bits 31:24. -/
def cwOp (w : Word) : Byte := w.extractLsb' 24 8

/-- `z`, bit 23. -/
def cwZ (w : Word) : BitVec 1 := w.extractLsb' 23 1

/-- `dev`, bits 22:16. -/
def cwDev (w : Word) : DevAddr := w.extractLsb' 16 7

/-- `reg`, bits 15:8. -/
def cwReg (w : Word) : Byte := w.extractLsb' 8 8

/-- `imm`, bits 7:0. -/
def cwImm (w : Word) : Byte := w.extractLsb' 0 8

/-- A word from its fields, with `z = 0` (R101). -/
def cwWord (op : Byte) (dev : DevAddr) (reg imm : Byte) : Word :=
  op.setWidth 32 <<< 24 ||| dev.setWidth 32 <<< 16 ||| reg.setWidth 32 <<< 8 ||| imm.setWidth 32

/-- Why a word is no command (R104). -/
inductive DecodeError where
  /-- `op` is none of the eighteen values. -/
  | unknownOpcode (op : Byte)
  /-- `z`, or a bit of a field the command does not use, is set. -/
  | unusedBitSet (op : Byte)
  /-- `RBURST` with `imm = 0`. -/
  | zeroCount
deriving DecidableEq, Repr

/-- A command that uses no field. -/
def takesNothing (w : Word) (i : Instr) : Except DecodeError Instr :=
  if cwZ w = 0#1 ∧ cwDev w = 0#7 ∧ cwReg w = 0#8 ∧ cwImm w = 0#8 then .ok i
  else .error (.unusedBitSet (cwOp w))

/-- A command that uses `imm` only. -/
def takesImm (w : Word) (i : Byte → Instr) : Except DecodeError Instr :=
  if cwZ w = 0#1 ∧ cwDev w = 0#7 ∧ cwReg w = 0#8 then .ok (i (cwImm w))
  else .error (.unusedBitSet (cwOp w))

/-- A command that uses `imm[0]` only. -/
def takesAck (w : Word) (i : Bool → Instr) : Except DecodeError Instr :=
  if cwZ w = 0#1 ∧ cwDev w = 0#7 ∧ cwReg w = 0#8 ∧ (cwImm w).extractLsb' 1 7 = 0#7 then
    .ok (i ((cwImm w).getLsbD 0))
  else .error (.unusedBitSet (cwOp w))

/-- A command that uses `dev` only. -/
def takesDev (w : Word) (i : DevAddr → Instr) : Except DecodeError Instr :=
  if cwZ w = 0#1 ∧ cwReg w = 0#8 ∧ cwImm w = 0#8 then .ok (i (cwDev w))
  else .error (.unusedBitSet (cwOp w))

/-- A command that uses `dev` and `reg`. -/
def takesDevReg (w : Word) (i : DevAddr → Byte → Instr) : Except DecodeError Instr :=
  if cwZ w = 0#1 ∧ cwImm w = 0#8 then .ok (i (cwDev w) (cwReg w))
  else .error (.unusedBitSet (cwOp w))

/-- A command that uses `dev`, `reg` and `imm`. -/
def takesAll (w : Word) (i : DevAddr → Byte → Byte → Instr) : Except DecodeError Instr :=
  if cwZ w = 0#1 then .ok (i (cwDev w) (cwReg w) (cwImm w))
  else .error (.unusedBitSet (cwOp w))

/-- A decoded command whose operands are illegal is no command (R103: `imm != 0` for RBURST). -/
def checkOperands : Except DecodeError Instr → Except DecodeError Instr
  | .ok i => if i.wf then .ok i else .error .zeroCount
  | .error e => .error e

/-- The decoder of R103's prose: read `op`, then require `z` and every unused field to be zero (and `imm != 0` for
RBURST). Total; it refuses by name. -/
def decode (w : Word) : Except DecodeError Instr :=
  match (cwOp w).toNat with
  | 0x01 => takesNothing w .init
  | 0x02 => takesNothing w .start
  | 0x03 => takesNothing w .rstart
  | 0x04 => takesNothing w .stop
  | 0x05 => takesImm w .wrb
  | 0x06 => takesAck w .rdb
  | 0x07 => takesNothing w .stat
  | 0x10 => takesAll w .wreg
  | 0x11 => takesDevReg w .rreg
  | 0x12 => checkOperands (takesAll w .rburst)
  | 0x20 => takesDev w .ldcal
  | 0x21 => takesDev w .reqm
  | 0x22 => takesDev w .rdrt
  | 0x23 => takesDev w .rdrp
  | 0x24 => takesNothing w .cmpt
  | 0x25 => takesNothing w .cmpp
  | 0x26 => takesDev w .sinit
  | 0x27 => takesDev w .sread
  | _ => .error (.unknownOpcode (cwOp w))

/-- The word of a command (R103). -/
def encode : Instr → Word
  | .init => cwWord 0x01 0 0 0
  | .start => cwWord 0x02 0 0 0
  | .rstart => cwWord 0x03 0 0 0
  | .stop => cwWord 0x04 0 0 0
  | .wrb b => cwWord 0x05 0 0 b
  | .rdb ack => cwWord 0x06 0 0 ((BitVec.ofBool ack).setWidth 8)
  | .stat => cwWord 0x07 0 0 0
  | .wreg dev reg value => cwWord 0x10 dev reg value
  | .rreg dev reg => cwWord 0x11 dev reg 0
  | .rburst dev reg count => cwWord 0x12 dev reg count
  | .ldcal dev => cwWord 0x20 dev 0 0
  | .reqm dev => cwWord 0x21 dev 0 0
  | .rdrt dev => cwWord 0x22 dev 0 0
  | .rdrp dev => cwWord 0x23 dev 0 0
  | .cmpt => cwWord 0x24 0 0 0
  | .cmpp => cwWord 0x25 0 0 0
  | .sinit dev => cwWord 0x26 dev 0 0
  | .sread dev => cwWord 0x27 dev 0 0

/-- The `match` word of a command's row in the opcode map (R103). -/
def Instr.rowMatch : Instr → Word
  | .init => 0x01000000
  | .start => 0x02000000
  | .rstart => 0x03000000
  | .stop => 0x04000000
  | .wrb _ => 0x05000000
  | .rdb _ => 0x06000000
  | .stat => 0x07000000
  | .wreg _ _ _ => 0x10000000
  | .rreg _ _ => 0x11000000
  | .rburst _ _ _ => 0x12000000
  | .ldcal _ => 0x20000000
  | .reqm _ => 0x21000000
  | .rdrt _ => 0x22000000
  | .rdrp _ => 0x23000000
  | .cmpt => 0x24000000
  | .cmpp => 0x25000000
  | .sinit _ => 0x26000000
  | .sread _ => 0x27000000

/-- The `mask` word of a command's row in the opcode map (R103). -/
def Instr.rowMask : Instr → Word
  | .init => 0xFFFFFFFF
  | .start => 0xFFFFFFFF
  | .rstart => 0xFFFFFFFF
  | .stop => 0xFFFFFFFF
  | .wrb _ => 0xFFFFFF00
  | .rdb _ => 0xFFFFFFFE
  | .stat => 0xFFFFFFFF
  | .wreg _ _ _ => 0xFF800000
  | .rreg _ _ => 0xFF8000FF
  | .rburst _ _ _ => 0xFF800000
  | .ldcal _ => 0xFF80FFFF
  | .reqm _ => 0xFF80FFFF
  | .rdrt _ => 0xFF80FFFF
  | .rdrp _ => 0xFF80FFFF
  | .cmpt => 0xFFFFFFFF
  | .cmpp => 0xFFFFFFFF
  | .sinit _ => 0xFF80FFFF
  | .sread _ => 0xFF80FFFF

/-- The decoder on an instruction of the opcode table given as a number: one 32-bit word, bit 0 its least significant bit;
bits above the `nbits` given are 0, and a number that needs more than 32 bits is no command word. -/
def decodeTableWord (nbits w : Nat) : Option Instr :=
  if w < 2 ^ 32 ∧ nbits ≤ 32 then (decode (BitVec.ofNat 32 (w % 2 ^ nbits))).toOption else none

end Sys2Proof
end

