-- ==== Sys2Proof/Machine/Fetch.lean ====
section
/-! DEFINITION. Where the next command comes from: the outside's next input (spec/20_memory.md R72 to R74, R88;
spec/40_bus_primitives.md R130; spec/70_reset_and_hazards.md R300). -/

namespace Sys2Proof.Machine

open Sys2Proof.Config

/-- What the next input is to the machine. -/
inductive Fetched where
  /-- A command is to run, from a state in which its word is in CMD. -/
  | command (i : Instr) (s : State)
  /-- The input is dealt with: no command runs. -/
  | settled (s : State)
  | fault (f : Fault)
  | refused (r : Refusal)
deriving DecidableEq, Repr

/-- `CMD <- w` for the host write that is the next input (R130). -/
def State.accept (s : State) (w : Word) (rest : List Input) : State :=
  { s with cmd := w, inputs := rest }

/-- A host write of `CMD` (R73, R130): a legal word is a command to run, an illegal one is refused `IllegalCommand`. -/
def fetchCommand (w : Word) (rest : List Input) (s : State) : Fetched :=
  match decode w with
  | .ok i => .command i (s.accept w rest)
  | .error _ => .settled ((s.accept w rest).beginCommand.refuse .illegalCommand)

/-- `HostWrite(n, v)` (R73, R74). While a command hangs the host is blocked: the write is never made, whatever its number,
and it is lost (R281; DESIGN CHOICE, log entry 4). -/
def fetchWrite (n : Nat) (v : Word) (rest : List Input) (s : State) : Fetched :=
  if s.busy then .settled { s with inputs := rest }
  else if n = 0 then fetchCommand v rest s
  else match s.hostWrite n v with
    | some s' => .settled { s' with inputs := rest }
    | none => .refused (.unmappedRegister n)

/-- `HostRead(n)` (R72, R74): the value goes to the host's own record and nothing else changes
(DESIGN CHOICE, log entry 7). -/
def fetchRead (n : Nat) (rest : List Input) (s : State) : Fetched :=
  match s.hostRead n with
  | some v => .settled { s with inputs := rest, hostLog := s.hostLog ++ [(n, v)] }
  | none => .refused (.unmappedRegister n)

/-- `Reset` (R300): every piece of state the spec names takes its reset value; the outside goes on where it is
(DESIGN CHOICE, log entry 6). -/
def State.takeReset (s : State) (rest : List Input) : State :=
  { State.resetWith s.cfg with
    answers := s.answers, busCount := s.busCount, inputs := rest, hostLog := s.hostLog }

/-- The next thing that happens (log entries 3, 4). With no input the idle controller does nothing (R282, R302) and a
hanging one is stuck (R281). -/
def fetch (s : State) : Fetched :=
  match s.inputs with
  | [] => if s.busy then .fault .hung else .settled s
  | .hostWrite n v :: rest => fetchWrite n v rest s
  | .hostRead n :: rest => fetchRead n rest s
  | .reset :: rest => .settled (s.takeReset rest)

/-- The host is about to write the command word `w`, and the controller is idle to take it (log entry 3). -/
def State.placeCommand (s : State) (w : Word) : State :=
  { s with inputs := .hostWrite 0 w :: s.inputs, busy := false }

end Sys2Proof.Machine
end

