-- ==== Sys2Proof/Machine/Step.lean ====
section
/-! DEFINITION. One step: the next input of the outside, and the command it issues run to completion (spec/00_scope.md
R7; DESIGN CHOICE, log entry 13). -/

namespace Sys2Proof.Machine

/-- One step of the machine. -/
def step (s : State) : Host.Outcome State Fault Refusal :=
  match fetch s with
  | .command i s' => exec i s'
  | .settled s' => .next s'
  | .fault f => .fault f
  | .refused r => .refused r

/-- The state in which the very next step is the host's write of this instruction's word to `CMD` (log entry 3). -/
def State.withFetchWord (s : State) (nbits w : Nat) : State :=
  s.placeCommand (BitVec.ofNat 32 (w % 2 ^ nbits))

end Sys2Proof.Machine
end

