-- ==== Sys2Proof/Safety.lean ====
section
/-! DEFINITION. The terms claims are stated in: what a command leaves alone, how a command's frame ends, what a responsive
environment answers and what it sees, the host's program of commands, and the invariants of the machine. -/

namespace Sys2Proof.Machine

open Sys2Proof.Config

/-! ### What stays the same -/

/-- No sensor register, validity flag, accumulator or Reading has changed (spec/10_state.md R37 to R43). -/
structure SameSensor (s t : State) : Prop where
  cal : t.cal = s.cal
  calValid : t.calValid = s.calValid
  measOk : t.measOk = s.measOk
  rawTValid : t.rawTValid = s.rawTValid
  rawPValid : t.rawPValid = s.rawPValid
  tFineValid : t.tFineValid = s.tFineValid
  rawT : t.rawT = s.rawT
  rawP : t.rawP = s.rawP
  tFine : t.tFine = s.tFine
  temp : t.temp = s.temp
  press : t.press = s.press
  divg : t.divg = s.divg
  rdT : t.rdT = s.rdT
  rdP : t.rdP = s.rdP
  accT : t.accT = s.accT
  accP : t.accP = s.accP
  cyc : t.cyc = s.cyc

/-- RXBUF, RX_LEN and IDX have not changed (R28 to R30). -/
structure SameBuffer (s t : State) : Prop where
  rxbuf : t.rxbuf = s.rxbuf
  rxLen : t.rxLen = s.rxLen
  idx : t.idx = s.idx

/-- The bus engine's registers, its phase and the bus history have not changed, and the environment was not asked
(R21 to R25, R44). -/
structure SameBus (s t : State) : Prop where
  ctrl : t.ctrl = s.ctrl
  status : t.status = s.status
  data : t.data = s.data
  phase : t.phase = s.phase
  dir : t.dir = s.dir
  hist : t.hist = s.hist
  answers : t.answers = s.answers
  busCount : t.busCount = s.busCount

/-- What no command's meaning writes but INIT's write of BITRATE: CMD (the host's write has set it), BITRATE, the
parameters, the coming inputs and the host's own record. -/
structure SameHeld (s t : State) : Prop where
  cmd : t.cmd = s.cmd
  bitrate : t.bitrate = s.bitrate
  cfg : t.cfg = s.cfg
  inputs : t.inputs = s.inputs
  hostLog : t.hostLog = s.hostLog

/-- The entries of RXBUF from `n` on read as before. -/
def SameEntriesFrom (n : Nat) (s t : State) : Prop := ∀ a, n ≤ a → t.rxbuf.read a = s.rxbuf.read a

/-- Every piece of state the spec names at its reset value (R46, R301). -/
structure State.AtReset (s : State) : Prop where
  ctrl : s.ctrl = 0x00#8
  status : s.status = 0xF8#8
  data : s.data = 0x00#8
  bitrate : s.bitrate = 0x00#8
  phase : s.phase = .idle
  dir : s.dir = .w
  result : s.result = 0x00#8
  rxbuf : ∀ n, s.rxbuf.read n = 0x00#8
  rxLen : s.rxLen = 0#8
  idx : s.idx = 0#8
  cmd : s.cmd = 0#32
  hstat : s.hstat = 0#32
  err : s.err = 0#32
  labels : s.spc = .s0 ∧ s.tpc = .t0
  cyc : s.cyc = 0
  cal : ∀ k, k < 12 → s.cal.hostWord k = some 0#32
  raw : s.rawT = 0#20 ∧ s.rawP = 0#20
  tFine : s.tFine = 0#32
  temp : s.temp = 0#32
  press : s.press = 0#32
  reading : s.rdT = 0#32 ∧ s.rdP = 0#32
  averages : s.accT = 0#32 ∧ s.accP = 0#32
  hist : s.hist = []

/-! ### How a command's frame ends (R130, R274) -/

/-- The frame after success: OK 1, FAIL 0, ERR 0, BUSY 0, `pc = (S0, T0)`. -/
def State.finished (s : State) : State :=
  { s with ok := true, fail := false, err := 0#32, busy := false, spc := .s0, tpc := .t0 }

/-- The frame after a failure recorded as `e`: OK 0, FAIL 1, ERR the record, BUSY 0, `pc = (S0, T0)`. -/
def State.endedFailed (s : State) (e : Word) : State :=
  { s with ok := false, fail := true, err := e, busy := false, spc := .s0, tpc := .t0 }

/-- The frame of a command that hangs at the labels `sp`, `tp` (R281): OK 0, FAIL 0, ERR 0, BUSY 1. -/
def State.hangingAt (s : State) (sp : SLabel) (tp : TLabel) : State :=
  { s with ok := false, fail := false, err := 0#32, busy := true, spc := sp, tpc := tp }

/-! ### A responsive environment (R75) and what goes over the bus (R77) -/

/-- The replies to a write transaction in which everything is done and acknowledged. -/
def ackedWrite : List Reply := [.done, .ack, .ack, .ack, .done]

/-- The replies to a read transaction in which everything is done and acknowledged and the device hands out `bytes`. -/
def ackedRead (bytes : List Byte) : List Reply :=
  [.done, .ack, .ack, .done, .ack] ++ bytes.map .byte ++ [.done]

/-- The receive events of a burst: every byte acknowledged but the last (R164). -/
def rxEvents : List Byte → List BusEvent
  | [] => []
  | [b] => [.rx b false]
  | b :: b' :: rest => .rx b true :: rxEvents (b' :: rest)

/-- The events of a complete write transaction (R162). -/
def writeEvents (dev : DevAddr) (reg v : Byte) : List BusEvent :=
  [.start, .tx (slaW dev) true, .tx reg true, .tx v true, .stop]

/-- The events of a complete read transaction (R164). -/
def readEvents (dev : DevAddr) (reg : Byte) (bytes : List Byte) : List BusEvent :=
  [.start, .tx (slaW dev) true, .tx reg true, .repStart, .tx (slaR dev) true] ++ rxEvents bytes ++ [.stop]

/-- `bytes` stored in a buffer from entry `n` on. -/
def storeBytes (m : Memory) : Nat → List Byte → Memory
  | _, [] => m
  | n, b :: rest => storeBytes (m.write n b) (n + 1) rest

/-- The device's six raw bytes in one measurement cycle: three of temperature, three of pressure. -/
structure Sample where
  t0 : Byte
  t1 : Byte
  t2 : Byte
  p0 : Byte
  p1 : Byte
  p2 : Byte
deriving DecidableEq, Repr

/-- The raw temperature code of a sample (R195). -/
def Sample.rawT (c : Sample) : RawCode := raw20 c.t0 c.t1 c.t2

/-- The raw pressure code of a sample (R195). -/
def Sample.rawP (c : Sample) : RawCode := raw20 c.p0 c.p1 c.p2

/-- `t_fine` of a sample (R213). -/
def Sample.tFine (k : Calib) (c : Sample) : Word := compTFine c.rawT k.t1 k.t2 k.t3

/-- The compensated temperature of a sample (R213). -/
def Sample.temp (k : Calib) (c : Sample) : Word := compTemp (c.tFine k)

/-- The compensated pressure of a sample, from the `t_fine` of the same sample (R218, R251). -/
def Sample.press (k : Calib) (c : Sample) : Word := (compP c.rawP (c.tFine k) k).1

/-- The replies to one measurement cycle (R251). -/
def Sample.replies (c : Sample) : List Reply :=
  ackedWrite ++ ackedRead [c.t0, c.t1, c.t2] ++ ackedRead [c.p0, c.p1, c.p2]

/-- The events of one measurement cycle (R251). -/
def Sample.events (dev : DevAddr) (c : Sample) : List BusEvent :=
  writeEvents dev 0xF4 0x25 ++ readEvents dev 0xFA [c.t0, c.t1, c.t2] ++ readEvents dev 0xF7 [c.p0, c.p1, c.p2]

/-! ### The step tables as data: R161 and R250 in numbers, and what they make of the environment's replies

Nothing here is taken from the machine: labels, phases, codes, trigger values and record layout are the spec's numbers
again, so that a statement over them pins the machine's own. -/

/-- The bus action of a step (R161). A send has two codes: for an acknowledged and for a refused byte. -/
inductive PlanAction where
  | start
  | send (b ackCode nackCode : Byte)
  | recv (ack : Bool)
  | stop
deriving DecidableEq, Repr

/-- A row of R161, in the transaction of the sensor step `spc`. -/
structure PlanStep where
  /-- The number of the sensor step (R250), 0 outside a composite command. -/
  spc : BitVec 4
  /-- The number of the step (R161). -/
  tpc : BitVec 4
  /-- The number of the phase `st` (R161), which is also the phase an answered action of the step leaves (R140). -/
  state : BitVec 3
  /-- The status code the step requires; for T9 what a stop always leaves, so that no check can fail there. -/
  expected : Byte
  /-- The kind of a status mismatch: 1, or 2 in the calibration read (R165). -/
  kind : BitVec 4
  action : PlanAction
deriving DecidableEq, Repr

/-- The CTRL value that triggers an action (R133, R135 to R137). -/
def PlanAction.trigger : PlanAction → Byte
  | .start => 0x24
  | .send _ _ _ => 0x04
  | .recv ack => if ack then 0x44 else 0x04
  | .stop => 0x14

/-- The event and the status code of an action that the environment answers with `r`, on a bus that is owned or not (R75,
R133 to R137, R139); `none` if `r` completes no such action. A stop is only asked for on an owned bus. -/
def PlanAction.outcome (owned : Bool) (a : PlanAction) (r : Reply) : Option (BusEvent × Byte) :=
  match a with
  | .start =>
    match r with
    | .done => some (if owned then (.repStart, 0x10) else (.start, 0x08))
    | .busErr => some (.busErr, 0x00)
    | _ => none
  | .send b ackCode nackCode =>
    match r with
    | .ack => some (.tx b true, ackCode)
    | .nack => some (.tx b false, nackCode)
    | .arbLost => some (.arbLost, 0x38)
    | .busErr => some (.busErr, 0x00)
    | _ => none
  | .recv ack =>
    match r with
    | .byte v => some (.rx v ack, if ack then 0x50 else 0x58)
    | .arbLost => some (.arbLost, 0x38)
    | .busErr => some (.busErr, 0x00)
    | _ => none
  | .stop =>
    match r with
    | .done => some (.stop, 0xF8)
    | _ => none

/-- What the bus registers show: the number of the phase (R25), CTRL, and `STATUS & 0xF8`. -/
structure BusView where
  phase : BitVec 3
  ctrl : Byte
  code : Byte
deriving DecidableEq, Repr

/-- The bus registers of a state. -/
def State.busView (s : State) : BusView := { phase := s.phase.code, ctrl := s.ctrl, code := s.code }

/-- Phases 1 to 3 own the bus (R26). -/
def BusView.owned (b : BusView) : Bool := b.phase == 1#3 || b.phase == 2#3 || b.phase == 3#3

/-- The bus registers while the action of `k` is not answered (R131). -/
def PlanStep.triggered (k : PlanStep) (b : BusView) : BusView := { b with ctrl := k.action.trigger, code := 0xF8 }

/-- The bus registers after the action of `k` was answered with event `e` and code `c` (R133 to R137): the completion flag
is set, for a stop the request bit is cleared; a lost bus is left Idle. -/
def PlanStep.answered (k : PlanStep) (e : BusEvent) (c : Byte) : BusView :=
  { phase := if e = .arbLost ∨ e = .busErr then 0#3 else k.state
    ctrl := if k.action = .stop then 0x04 else k.action.trigger ||| 0x80
    code := c }

/-- The error record of step `k` (R36, R272). -/
def PlanStep.record (k : PlanStep) (kind : BitVec 4) (expected got : Byte) : Word :=
  k.spc ++ k.tpc ++ got ++ expected ++ 0#1 ++ k.state ++ kind

/-- How a command ends. -/
inductive Ending where
  /-- In success. -/
  | completed
  /-- In failure with this record (R165, R275). -/
  | failed (err : Word)
  /-- It hangs at the sensor step and the step of these numbers (R281). -/
  | hangs (spc tpc : BitVec 4)
  /-- It hangs in the stop of an abort (R277). -/
  | hangsInStop
deriving DecidableEq, Repr

/-- What a command has done on the bus, how it has left the bus registers, and how it ended. -/
structure Played where
  events : List BusEvent
  bus : BusView
  ending : Ending
deriving DecidableEq, Repr

/-- The abort with record `err` (R165, R275, R277): nothing follows, or under `STOP_ON_ABORT` a stop, whose own timeout is
dropped. `none` if the environment gives the stop no reply of its outcome set. -/
def playAbort (cfg : Params) (err : Word) (b : BusView) (replies : List Reply) : Option Played :=
  if cfg.stopOnAbort then
    if b.owned then
      match replies with
      | .done :: _ => some { events := [.stop], bus := { phase := 4, ctrl := 0x04, code := 0xF8 }, ending := .failed err }
      | .never :: _ => some {
          events := [], bus := { b with ctrl := 0x14, code := 0xF8 }
          ending := match cfg.waitLimit with
            | .inf => .hangsInStop
            | .finite _ => .failed err }
      | _ => none
    else some { events := [], bus := { phase := 4, ctrl := 0x04, code := 0xF8 }, ending := .failed err }
  else some { events := [], bus := b, ending := .failed err }

/-- What a list of steps makes of the environment's replies, one for each action (R160, R131, R165): the first action that
is not answered, or answered with another code than the step requires, ends it. `none` if an action meets no reply of its
outcome set. -/
def play (cfg : Params) : List PlanStep → BusView → List Reply → Option Played
  | [], b, _ => some { events := [], bus := b, ending := .completed }
  | _ :: _, _, [] => none
  | k :: ks, b, r :: rs =>
    if r = .never then
      match cfg.waitLimit with
      | .inf => some { events := [], bus := k.triggered b, ending := .hangs k.spc k.tpc }
      | .finite _ => playAbort cfg (k.record 3 0 0) (k.triggered b) rs
    else
      match k.action.outcome b.owned r with
      | none => none
      | some (e, c) =>
        (if c = k.expected then play cfg ks (k.answered e c) rs
          else playAbort cfg (k.record k.kind k.expected c) (k.answered e c) rs).map
          fun p => { p with events := e :: p.events }

/-- T1 to T3 (R161). -/
def addressingPlan (spc kind : BitVec 4) (dev : DevAddr) (reg : Byte) : List PlanStep :=
  [{ spc, kind, tpc := 1, state := 1, expected := 0x08, action := .start },
   { spc, kind, tpc := 2, state := 2, expected := 0x18, action := .send (dev ++ 0#1) 0x18 0x20 },
   { spc, kind, tpc := 3, state := 3, expected := 0x28, action := .send reg 0x28 0x30 }]

/-- T9 (R161). -/
def stopPlan (spc kind : BitVec 4) : List PlanStep :=
  [{ spc, kind, tpc := 9, state := 4, expected := 0xF8, action := .stop }]

/-- The write transaction: T1, T2, T3, T4, T9 (R162). -/
def writePlan (spc : BitVec 4) (dev : DevAddr) (reg v : Byte) : List PlanStep :=
  addressingPlan spc 1 dev reg
    ++ [{ spc, kind := 1, tpc := 4, state := 3, expected := 0x28, action := .send v 0x28 0x30 }]
    ++ stopPlan spc 1

/-- The read transaction of `count` bytes: T1, T2, T3, T5, T6, T7 `count - 1` times, T8, T9 (R164). -/
def readPlan (spc kind : BitVec 4) (dev : DevAddr) (reg : Byte) (count : Nat) : List PlanStep :=
  addressingPlan spc kind dev reg
    ++ [{ spc, kind, tpc := 5, state := 1, expected := 0x10, action := .start },
        { spc, kind, tpc := 6, state := 2, expected := 0x40, action := .send (dev ++ 1#1) 0x40 0x48 }]
    ++ List.replicate (count - 1) { spc, kind, tpc := 7, state := 3, expected := 0x50, action := .recv true }
    ++ [{ spc, kind, tpc := 8, state := 3, expected := 0x58, action := .recv false }]
    ++ stopPlan spc kind

/-- The bus actions of one reading cycle: S2, S3, S6 (R250, R251). -/
def cyclePlan (dev : DevAddr) : List PlanStep :=
  writePlan 2 dev 0xF4 0x25 ++ readPlan 3 1 dev 0xFA 3 ++ readPlan 6 1 dev 0xF7 3

/-- The bus actions of a transaction or sensor command, in order (R162 to R164, R190 to R194, R252, R253); none for the
others. -/
def busPlan : Instr → List PlanStep
  | .wreg dev reg v => writePlan 0 dev reg v
  | .rreg dev reg => readPlan 0 1 dev reg 1
  | .rburst dev reg count => readPlan 0 1 dev reg count.toNat
  | .ldcal dev => readPlan 0 2 dev 0x88 24
  | .reqm dev => writePlan 0 dev 0xF4 0x25
  | .rdrt dev => readPlan 0 1 dev 0xFA 3
  | .rdrp dev => readPlan 0 1 dev 0xF7 3
  | .sread dev => cyclePlan dev
  | .sinit dev => readPlan 1 2 dev 0x88 24 ++ (List.replicate 10 (cyclePlan dev)).flatten
  | .init => []
  | .start => []
  | .rstart => []
  | .stop => []
  | .wrb _ => []
  | .rdb _ => []
  | .stat => []
  | .cmpt => []
  | .cmpp => []

/-- The preconditions of a transaction or sensor command hold (R274); false of the others. -/
def maySequence (s : State) : Instr → Prop
  | .wreg _ _ _ => s.en = true
  | .rreg _ _ => s.en = true
  | .rburst _ _ count => s.en = true ∧ count ≠ 0#8
  | .ldcal _ => s.en = true
  | .reqm _ => s.en = true
  | .rdrt _ => s.en = true ∧ s.measOk = true
  | .rdrp _ => s.en = true ∧ s.measOk = true
  | .sread _ => s.en = true ∧ s.calValid = true
  | .sinit _ => s.en = true
  | .init => False
  | .start => False
  | .rstart => False
  | .stop => False
  | .wrb _ => False
  | .rdb _ => False
  | .stat => False
  | .cmpt => False
  | .cmpp => False

/-- The state `t` is what a command that was begun in `s` leaves when it has gone as `p` says: the events, the bus
registers, and the frame (R130, R165, R275, R281). In the stop of an abort that hangs nothing is said of ERR and the labels
(log entry 9). -/
structure Played.Left (p : Played) (s t : State) : Prop where
  hist : t.hist = s.hist ++ p.events
  bus : t.busView = p.bus
  ending : match p.ending with
    | .completed => t.ok = true ∧ t.fail = false ∧ t.busy = false ∧ t.err = 0#32 ∧ t.spc = .s0 ∧ t.tpc = .t0
    | .failed e => t.ok = false ∧ t.fail = true ∧ t.busy = false ∧ t.err = e ∧ t.spc = .s0 ∧ t.tpc = .t0
    | .hangs spc tpc => t.ok = false ∧ t.fail = false ∧ t.busy = true ∧ t.err = 0#32 ∧ t.spc.code = spc
        ∧ t.tpc.code = tpc
    | .hangsInStop => t.ok = false ∧ t.fail = false ∧ t.busy = true

/-! ### The compensation in integers: R210 to R218 read literally, with exact arithmetic narrowed after every operation -/

/-- `wrap32(z)`: the `i32` congruent to `z` modulo 2^32 (R210). -/
def wrap32 (z : Int) : Int := (z + 2147483648) % 4294967296 - 2147483648

/-- `as_u32` (R8). -/
def asU32 (z : Int) : Int := z % 4294967296

/-- `as_i32` (R8). -/
def asI32 (u : Int) : Int := if u < 2147483648 then u else u - 4294967296

/-- `t_fine` of `comp_T` over the integers (R213). -/
def intTFine (raw t1 t2 t3 : Int) : Int :=
  let x1 := wrap32 (raw / 2 ^ 3 - wrap32 (t1 * 2 ^ 1))
  let var1 := wrap32 (x1 * t2) / 2 ^ 11
  let d := wrap32 (raw / 2 ^ 4 - t1)
  let sq := wrap32 (d * d)
  let var2 := wrap32 (sq / 2 ^ 12 * t3) / 2 ^ 14
  wrap32 (var1 + var2)

/-- `T` of `comp_T` over the integers (R213). -/
def intTemp (tFine : Int) : Int := wrap32 (wrap32 (tFine * 5) + 128) / 2 ^ 8

/-- `comp_P` over the integers (R218): `P1` to `P9` are the coefficients' values; the result is the pressure and the
guard. -/
def intCompP (raw tFine p1 p2 p3 p4 p5 p6 p7 p8 p9 : Int) : Int × Bool :=
  let a1 := wrap32 (tFine / 2 ^ 1 - 64000)
  let q := wrap32 (a1 / 2 ^ 2 * (a1 / 2 ^ 2))
  let b1 := wrap32 (q / 2 ^ 11 * p6)
  let b2 := wrap32 (b1 + wrap32 (wrap32 (a1 * p5) * 2 ^ 1))
  let b3 := wrap32 (b2 / 2 ^ 2 + wrap32 (p4 * 2 ^ 16))
  let a2 := wrap32 (wrap32 (p3 * (q / 2 ^ 13)) / 2 ^ 3 + wrap32 (p2 * a1) / 2 ^ 1) / 2 ^ 18
  let a3 := wrap32 (wrap32 (32768 + a2) * p1) / 2 ^ 15
  if a3 = 0 then (0, true)
  else
    let n0 := (asU32 (wrap32 (1048576 - raw)) - asU32 (b3 / 2 ^ 12)) % 4294967296
    let n1 := n0 * 3125 % 4294967296
    let n2 := if n1 < 2147483648 then n1 * 2 % 4294967296 / asU32 a3 else n1 / asU32 a3 * 2 % 4294967296
    let c1 := wrap32 (p9 * asI32 (n2 / 2 ^ 3 * (n2 / 2 ^ 3) % 4294967296 / 2 ^ 13)) / 2 ^ 12
    let c2 := wrap32 (asI32 (n2 / 2 ^ 2) * p8) / 2 ^ 13
    (asU32 (wrap32 (asI32 n2 + wrap32 (wrap32 (c1 + c2) + p7) / 2 ^ 4)), false)

/-! ### The host's program -/

/-- Commands one after the other, stopping at the first that does not answer a next state. -/
def execAll : List Instr → State → Host.Outcome State Fault Refusal
  | [], s => .next s
  | i :: rest, s =>
    match exec i s with
    | .next t => execAll rest t
    | .fault f => .fault f
    | .refused r => .refused r

/-! ### Invariants -/

/-- RXBUF is in its canonical form. -/
def State.BufferInv (s : State) : Prop := s.rxbuf.wf = true

/-- Reserved bits of CTRL and STATUS read 0, and the status code is one of the thirteen (R21, R22, R139). -/
def State.RegisterInv (s : State) : Prop :=
  s.ctrl &&& 0x0B#8 = 0#8 ∧ s.status &&& 0x04#8 = 0#8 ∧ ∃ c : StatusCode, s.code = c.byte

/-- The bus history ends with the controller master of the bus: its last event is a start, a byte sent or a byte
received. -/
def histOwned (h : List BusEvent) : Bool :=
  match h.getLast? with
  | some .start => true
  | some .repStart => true
  | some (.tx _ _) => true
  | some (.rx _ _) => true
  | some .stop => false
  | some .arbLost => false
  | some .busErr => false
  | none => false

/-- The phase agrees with the bus history (R25, R26), and DIR is 0 outside AddrSent and DataPhase (R25). -/
def State.OwnershipInv (s : State) : Prop :=
  s.owned = histOwned s.hist ∧ (s.dir = .r → s.phase = .addrSent ∨ s.phase = .dataPhase)

/-- A validity flag of the cycle is set only within a cycle, and `T_FINE` only with a calibration (R43, R216). -/
def State.CycleInv (s : State) : Prop :=
  (s.rawTValid = true → s.measOk = true) ∧ (s.rawPValid = true → s.measOk = true)
    ∧ (s.tFineValid = true → s.measOk = true ∧ s.calValid = true)

/-- An idle controller has `pc = (S0, T0)` (R47); OK and FAIL are never both set, neither while a command runs, and a
success leaves no error record (R32, R36). -/
def State.OutcomeInv (s : State) : Prop :=
  (s.busy = false → s.spc = .s0 ∧ s.tpc = .t0) ∧ ¬ (s.ok = true ∧ s.fail = true)
    ∧ (s.busy = true → s.ok = false ∧ s.fail = false) ∧ (s.ok = true → s.err = 0#32)

/-- ERR is 0 or the record of an error: a kind from 1 to 7, a phase code up to 4, labels up to 9, bit 7 zero; FAIL says
that it is not 0 (R36, R270, R272). -/
def State.ErrorInv (s : State) : Prop :=
  (s.err = 0#32 ∨ ∃ e : ErrInfo, e.kind ≠ .none ∧ s.err = e.word) ∧ (s.fail = true → s.err ≠ 0#32)

/-- Until INIT has run the bus is untouched and no calibration is loaded (R274, R303). -/
def State.EnableInv (s : State) : Prop :=
  s.en = false → s.phase = .idle ∧ s.hist = [] ∧ s.calValid = false ∧ s.measOk = false

/-- The counters stay in their ranges: CYC at most 10 (R35), and RX_LEN is 0 or the count IDX has reached (R29, R30). -/
def State.CounterInv (s : State) : Prop :=
  s.cyc ≤ 10 ∧ (s.rxLen = 0#8 ∨ s.rxLen = s.idx)

end Sys2Proof.Machine
end

