-- ==== Sys2Proof/Certificates/Slice0/Obligations.lean ====
section
/-! DEFINITION. The statements for the provers, one per obligation of OBLIGATIONS.json, in the order of the spec's files. -/

open Sys2Proof Sys2Proof.Machine Sys2Proof.Config

/-! ### The step, reset and the host's registers (spec/10_state.md, 20_memory.md, 70_reset_and_hazards.md) -/

/-- The host's write of a legal word runs its command: a step is `exec` of the decoded command, from the state in which the
word is in CMD and the input is taken (R73, R130). `withFetchWord` places such a write. -/
def Obligations.StepRunsDecodedCommand : Prop :=
  ∀ (s : State) (w : Word) (rest : List Input) (i : Instr), decode w = .ok i →
    (s.busy = false → s.inputs = .hostWrite 0 w :: rest → step s = exec i { s with cmd := w, inputs := rest })
    ∧ step (s.withFetchWord 32 w.toNat) = exec i { s with cmd := w, busy := false }

/-- R104, R274: a word that decodes to nothing is refused `IllegalCommand`, whatever `CTRL.EN` is, and nothing but CMD, OK,
FAIL and ERR is touched. -/
def Obligations.IllegalWordIsRefusedWithoutEffect : Prop :=
  ∀ (s : State) (w : Word) (rest : List Input) (e : DecodeError), s.busy = false → s.spc = .s0 → s.tpc = .t0 →
    s.inputs = .hostWrite 0 w :: rest → decode w = .error e →
    step s = .next { s with cmd := w, inputs := rest, ok := false, fail := true, err := 4#32 }

/-- R46: every piece of state is at its reset value in the reset state, whatever the parameters, and after a Reset taken in
any state, one with a hanging command too. -/
def Obligations.ResetValues : Prop :=
  (∀ cfg : Params, (State.resetWith cfg).AtReset)
  ∧ ∀ (s : State) (rest : List Input), s.inputs = .reset :: rest → ∃ t, step s = .next t ∧ t.AtReset

/-- R301: what the host reads after reset; only INIT can succeed, every other legal command is refused `NotEnabled` and every
illegal word `IllegalCommand`, with HSTAT reading 2; and the host may write the seed before INIT. -/
def Obligations.AfterResetOnlyInitSucceeds : Prop :=
  ∀ (cfg : Params) (rest : List Input), let s := State.resetWith cfg
    (s.hostRead 1 = some 0#32 ∧ s.hostRead 4 = some 0x00#32 ∧ s.hostRead 5 = some 0xF8#32
      ∧ ∀ n v, n ≠ 5 → s.hostRead n = some v → v = 0#32)
    ∧ (∀ w e, decode w = .error e →
        ∃ t, step { s with inputs := .hostWrite 0 w :: rest } = .next t ∧ t.err = 4#32 ∧ t.hstat = 2#32)
    ∧ (∀ w i, decode w = .ok i → i ≠ .init →
        ∃ t, step { s with inputs := .hostWrite 0 w :: rest } = .next t ∧ t.err = 5#32 ∧ t.hstat = 2#32)
    ∧ (∀ w, decode w = .ok .init →
        ∃ t, step { s with inputs := .hostWrite 0 w :: rest } = .next t ∧ t.err = 0#32 ∧ t.hstat = 5#32)
    ∧ (∀ v, step { s with inputs := .hostWrite 14 v :: rest } = .next { s with inputs := rest, rdT := v }
        ∧ step { s with inputs := .hostWrite 15 v :: rest } = .next { s with inputs := rest, rdP := v })

/-- R71: what the host reads at every mapped register number, and that no other number has a value. -/
def Obligations.HostRegisterMap : Prop :=
  ∀ s : State,
    s.hostRead 0 = some s.cmd ∧ s.hostRead 1 = some s.hstat ∧ s.hostRead 2 = some s.err
    ∧ s.hostRead 3 = some (s.result.setWidth 32) ∧ s.hostRead 4 = some (s.ctrl.setWidth 32)
    ∧ s.hostRead 5 = some (s.status.setWidth 32) ∧ s.hostRead 6 = some (s.data.setWidth 32)
    ∧ s.hostRead 7 = some (s.bitrate.setWidth 32) ∧ s.hostRead 8 = some (s.rxLen.setWidth 32)
    ∧ s.hostRead 9 = some (s.rawT.setWidth 32) ∧ s.hostRead 10 = some (s.rawP.setWidth 32)
    ∧ s.hostRead 11 = some s.tFine ∧ s.hostRead 12 = some s.temp ∧ s.hostRead 13 = some s.press
    ∧ s.hostRead 14 = some s.rdT ∧ s.hostRead 15 = some s.rdP ∧ s.hostRead 16 = some s.accT
    ∧ s.hostRead 17 = some s.accP
    ∧ s.hostRead 32 = some (s.cal.t1.setWidth 32) ∧ s.hostRead 33 = some (s.cal.t2.signExtend 32)
    ∧ s.hostRead 34 = some (s.cal.t3.signExtend 32) ∧ s.hostRead 35 = some (s.cal.p1.setWidth 32)
    ∧ s.hostRead 36 = some (s.cal.p2.signExtend 32) ∧ s.hostRead 37 = some (s.cal.p3.signExtend 32)
    ∧ s.hostRead 38 = some (s.cal.p4.signExtend 32) ∧ s.hostRead 39 = some (s.cal.p5.signExtend 32)
    ∧ s.hostRead 40 = some (s.cal.p6.signExtend 32) ∧ s.hostRead 41 = some (s.cal.p7.signExtend 32)
    ∧ s.hostRead 42 = some (s.cal.p8.signExtend 32) ∧ s.hostRead 43 = some (s.cal.p9.signExtend 32)
    ∧ (∀ k, k < 255 → s.hostRead (256 + k) = some ((s.rxbuf.read k).setWidth 32))
    ∧ (∀ n, (s.hostRead n).isSome = true ↔ n ≤ 17 ∨ (32 ≤ n ∧ n ≤ 43) ∨ (256 ≤ n ∧ n ≤ 510))

/-- The bits of HSTAT (R32). -/
def Obligations.HstatBits : Prop :=
  ∀ s : State,
    s.hstat.getLsbD 0 = s.ok ∧ s.hstat.getLsbD 1 = s.fail ∧ s.hstat.getLsbD 2 = s.ctrl.getLsbD 2
    ∧ s.hstat.getLsbD 3 = s.calValid ∧ s.hstat.getLsbD 4 = s.measOk ∧ s.hstat.getLsbD 5 = s.rawTValid
    ∧ s.hstat.getLsbD 6 = s.rawPValid ∧ s.hstat.getLsbD 7 = s.tFineValid ∧ s.hstat.getLsbD 8 = s.divg
    ∧ s.hstat.getLsbD 9 = s.busy ∧ s.hstat.extractLsb' 10 3 = s.phase.code
    ∧ s.hstat.extractLsb' 13 1 = s.dir.code ∧ s.hstat.extractLsb' 14 18 = 0#18

/-- R72, R73: a host read of a mapped register returns its value, in the host's own record, and changes no register; the
host writes the two seed registers, and a write to any other mapped register but CMD has no effect on any state. (A read
while a command hangs is allowed by R72; that the model allows it is its choice, log entry 4.) -/
def Obligations.HostAccesses : Prop :=
  ∀ (s : State) (n : Nat) (v : Word) (rest : List Input), (n ≤ 17 ∨ (32 ≤ n ∧ n ≤ 43) ∨ (256 ≤ n ∧ n ≤ 510)) →
    (s.inputs = .hostRead n :: rest →
      ∃ v, s.hostRead n = some v ∧ step s = .next { s with inputs := rest, hostLog := s.hostLog ++ [(n, v)] })
    ∧ (s.busy = false → s.inputs = .hostWrite n v :: rest → n ≠ 0 →
      step s = .next { s with
        inputs := rest, rdT := if n = 14 then v else s.rdT, rdP := if n = 15 then v else s.rdP })

/-- R74: an access to an unmapped register number has no step and no value. -/
def Obligations.UnmappedAccessIsRefused : Prop :=
  ∀ (s : State) (n : Nat) (rest : List Input),
    ((18 ≤ n ∧ n ≤ 31) ∨ (44 ≤ n ∧ n ≤ 255) ∨ 511 ≤ n) →
    (s.inputs = .hostRead n :: rest → step s = .refused (.unmappedRegister n))
    ∧ (∀ v, s.busy = false → s.inputs = .hostWrite n v :: rest → step s = .refused (.unmappedRegister n))

/-- R281: while a command hangs, a step changes no register: only a reset does. With nothing left to come from outside the
machine is stuck (the model's form of the hang, log entry 4). -/
def Obligations.OnlyResetEndsAHang : Prop :=
  ∀ s : State, s.busy = true →
    (∀ t, step s = .next t → (∀ rest, s.inputs ≠ .reset :: rest) →
      t = { s with inputs := s.inputs.tail, hostLog := t.hostLog })
    ∧ (s.inputs = [] → step s = .fault .hung)

/-! ### Encoding (spec/30_encoding.md) -/

/-- R105 and 95_test_vectors.md E1 to E12: words written out there decode to their commands, and two of E20 to E28 do
not. -/
def Obligations.WordsOfTheSpecDecode : Prop :=
  decode 0x01000000#32 = .ok .init ∧ decode 0x050000EE#32 = .ok (.wrb 0xEE) ∧ decode 0x06000001#32 = .ok (.rdb true)
  ∧ decode 0x1077F425#32 = .ok (.wreg 0x77 0xF4 0x25) ∧ decode 0x1177D000#32 = .ok (.rreg 0x77 0xD0)
  ∧ decode 0x127FFFFF#32 = .ok (.rburst 0x7F 0xFF 255) ∧ decode 0x20770000#32 = .ok (.ldcal 0x77)
  ∧ decode 0x25000000#32 = .ok .cmpp ∧ decode 0x27770000#32 = .ok (.sread 0x77)
  ∧ decode 0x12778800#32 = .error .zeroCount ∧ decode 0x10F7F425#32 = .error (.unusedBitSet 0x10)

/-- Decoding the word of a well-formed command gives the command back, every operand at every value (R101 to R103). -/
def Obligations.DecodeOfEncode : Prop :=
  ∀ i : Instr, i.wf = true → decode (encode i) = .ok i

/-- One word has at most one command with one operand tuple, and the command is well formed: the word is the command's
encoding, bit for bit (R104, injectivity). -/
def Obligations.EncodeOfDecode : Prop :=
  ∀ (w : Word) (i : Instr), decode w = .ok i → i.wf = true ∧ encode i = w

/-- R103: a word is a command of a row iff its masked bits match (and, for RBURST, `imm != 0`). -/
def Obligations.MaskAndMatchDecideTheCommand : Prop :=
  ∀ (w : Word) (i : Instr),
    (∃ j, decode w = .ok j ∧ j.rowMatch = i.rowMatch)
      ↔ (w &&& i.rowMask = i.rowMatch ∧ (i.rowMatch = 0x12000000#32 → w &&& 0xFF#32 ≠ 0#32))

/-! ### Refusals (spec/60_exceptions.md) -/

/-- R274 (and R303): the checks after decoding, in their order, the first that fails deciding the kind, and the whole effect of a refusal. The
premises on the labels and BUSY hold between commands (R47, R32; `StepKeepsOutcomeAndErrorRecord`). -/
def Obligations.RefusalsInOrder : Prop :=
  ∀ (s : State) (i : Instr), i.wf = true → s.busy = false → s.spc = .s0 → s.tpc = .t0 →
    let refused := fun k : Word => Host.Outcome.next { s with ok := false, fail := true, err := k }
    (s.en = false → i ≠ .init → exec i s = refused 5#32)
    ∧ (s.en = true → s.calValid = false → (i = .cmpt ∨ i = .cmpp ∨ ∃ dev, i = .sread dev) → exec i s = refused 2#32)
    ∧ (s.en = true → (∃ b, i = .wrb b) → ¬ (s.owned = true ∧ (s.phase = .started ∨ s.dir = .w)) →
        exec i s = refused 6#32)
    ∧ (s.en = true → (∃ a, i = .rdb a) → ¬ ((s.phase = .addrSent ∨ s.phase = .dataPhase) ∧ s.dir = .r) →
        exec i s = refused 6#32)
    ∧ (s.en = true → ((∃ dev, i = .rdrt dev) ∨ ∃ dev, i = .rdrp dev) → s.measOk = false → exec i s = refused 7#32)
    ∧ (s.en = true → s.calValid = true → i = .cmpt → s.rawTValid = false → exec i s = refused 7#32)
    ∧ (s.en = true → s.calValid = true → i = .cmpp → (s.rawPValid = false ∨ s.tFineValid = false) →
        exec i s = refused 7#32)

/-- Every command answers a next state in every state. With a finite `WAIT_LIMIT` it ends there, in success or in failure;
with `inf` no command records the kind BusTimeout (R279). A command that has not ended hangs: BUSY 1, OK and FAIL 0
(R281). -/
def Obligations.EveryCommandAnswers : Prop :=
  ∀ (i : Instr) (s : State), ∃ t, exec i s = .next t
    ∧ ((∃ n, s.cfg.waitLimit = .finite n) → t.busy = false)
    ∧ (s.cfg.waitLimit = .inf → t.err.extractLsb' 0 4 ≠ 3#4)
    ∧ (t.busy = false → (t.ok = true ↔ t.fail = false))
    ∧ (t.busy = true → t.ok = false ∧ t.fail = false)

/-! ### Bus primitives (spec/40_bus_primitives.md) -/

/-- R132: what INIT writes; and a second INIT changes nothing. -/
def Obligations.InitConfiguresAndEnables : Prop :=
  ∀ s : State, ∃ t, exec .init s = .next t
    ∧ t = { s.finished with
        bitrate := s.cfg.bitrateInit
        status := (s.status &&& 0xF8#8) ||| s.cfg.prescaleInit.setWidth 8
        ctrl := s.ctrl ||| 0x04#8 }
    ∧ t.en = true ∧ exec .init t = .next t

/-- START and RSTART put a first start, or a repeated start when the bus is owned, on the bus; a bus error leaves the
controller idle (R133, R134). -/
def Obligations.StartAndRstartResult : Prop :=
  ∀ (i : Instr) (s : State), (i = .start ∨ i = .rstart) → s.en = true →
    (s.startReply = .done → exec i s = .next { s.finished with
      ctrl := 0xA4, status := (if s.owned then 0x10#8 else 0x08#8) ||| (s.status &&& 0x03#8)
      phase := .started, dir := .w, hist := s.hist ++ [if s.owned then BusEvent.repStart else BusEvent.start]
      answers := s.answers.tail, busCount := s.busCount + 1 })
    ∧ (s.startReply = .busErr → exec i s = .next { s.finished with
      ctrl := 0xA4, status := s.status &&& 0x03#8
      phase := .idle, dir := .w, hist := s.hist ++ [BusEvent.busErr]
      answers := s.answers.tail, busCount := s.busCount + 1 })

/-- STOP puts a stop on an owned bus; on a bus it does not own it puts nothing there, with the same register effects
(R135). -/
def Obligations.StopResult : Prop :=
  ∀ s : State, s.en = true →
    (s.owned = true → s.stopReply = .done → exec .stop s = .next { s.finished with
      ctrl := 0x04, status := 0xF8#8 ||| (s.status &&& 0x03#8), phase := .stopped, dir := .w
      hist := s.hist ++ [BusEvent.stop], answers := s.answers.tail, busCount := s.busCount + 1 })
    ∧ (s.owned = false → exec .stop s = .next { s.finished with
      ctrl := 0x04, status := 0xF8#8 ||| (s.status &&& 0x03#8), phase := .stopped, dir := .w })

/-- WRB sends an address byte after a start, else a data byte, and succeeds whatever the answer (R136). -/
def Obligations.WrbResult : Prop :=
  ∀ (b : Byte) (s : State), s.en = true → s.owned = true → (s.phase = .started ∨ s.dir = .w) →
    let sent := { s.finished with
      ctrl := 0x84, data := b, answers := s.answers.tail, busCount := s.busCount + 1 }
    let ps := s.status &&& 0x03#8
    (∀ a : Bool, s.sendReply b = (if a then .ack else .nack) → s.phase = .started →
      exec (.wrb b) s = .next { sent with
        status := (if b.getLsbD 0 then (if a then 0x40#8 else 0x48#8) else (if a then 0x18#8 else 0x20#8)) ||| ps
        phase := .addrSent, dir := if b.getLsbD 0 then .r else .w, hist := s.hist ++ [.tx b a] })
    ∧ (∀ a : Bool, s.sendReply b = (if a then .ack else .nack) → s.phase ≠ .started →
      exec (.wrb b) s = .next { sent with
        status := (if a then 0x28#8 else 0x30#8) ||| ps, phase := .dataPhase, hist := s.hist ++ [.tx b a] })
    ∧ (s.sendReply b = .arbLost → exec (.wrb b) s = .next { sent with
        status := 0x38#8 ||| ps, phase := .idle, dir := .w, hist := s.hist ++ [.arbLost] })
    ∧ (s.sendReply b = .busErr → exec (.wrb b) s = .next { sent with
        status := ps, phase := .idle, dir := .w, hist := s.hist ++ [.busErr] })

/-- RDB receives a byte and answers it; lost arbitration and a bus error leave DATA and RESULT (R137). -/
def Obligations.RdbResult : Prop :=
  ∀ (ack : Bool) (s : State), s.en = true → (s.phase = .addrSent ∨ s.phase = .dataPhase) → s.dir = .r →
    let asked := { s.finished with
      ctrl := if ack then 0xC4 else 0x84, answers := s.answers.tail, busCount := s.busCount + 1 }
    let ps := s.status &&& 0x03#8
    (∀ v, s.recvReply ack = .byte v → exec (.rdb ack) s = .next { asked with
        data := v, result := v, phase := .dataPhase, status := (if ack then 0x50#8 else 0x58#8) ||| ps
        hist := s.hist ++ [.rx v ack] })
    ∧ (s.recvReply ack = .arbLost → exec (.rdb ack) s = .next { asked with
        status := 0x38#8 ||| ps, phase := .idle, dir := .w, hist := s.hist ++ [.arbLost] })
    ∧ (s.recvReply ack = .busErr → exec (.rdb ack) s = .next { asked with
        status := ps, phase := .idle, dir := .w, hist := s.hist ++ [.busErr] })

/-- STAT puts the masked status code in RESULT and changes nothing else (R138). -/
def Obligations.StatResult : Prop :=
  ∀ s : State, s.en = true → exec .stat s = .next { s.finished with result := s.status &&& 0xF8#8 }

/-- R131: a primitive whose action never completes gives up as the trigger left it under a finite `WAIT_LIMIT` (kind 3),
and hangs under `inf`; DATA holds the byte a send loaded. -/
def Obligations.PrimitiveNeverAnswered : Prop :=
  ∀ s : State, s.en = true →
    let status := 0xF8#8 ||| (s.status &&& 0x03#8)
    let left := fun t : State => Host.Outcome.next (match s.cfg.waitLimit with
      | .inf => { t with answers := s.answers.tail, busCount := s.busCount + 1 }.hangingAt .s0 .t0
      | .finite _ => { t with answers := s.answers.tail, busCount := s.busCount + 1 }.endedFailed 3#32)
    (∀ i, (i = .start ∨ i = .rstart) → s.startReply = .never → exec i s = left { s with ctrl := 0x24, status := status })
    ∧ (s.owned = true → s.stopReply = .never → exec .stop s = left { s with ctrl := 0x14, status := status })
    ∧ (∀ b, s.owned = true → (s.phase = .started ∨ s.dir = .w) → s.sendReply b = .never →
        exec (.wrb b) s = left { s with ctrl := 0x04, status := status, data := b })
    ∧ (∀ ack, (s.phase = .addrSent ∨ s.phase = .dataPhase) → s.dir = .r → s.recvReply ack = .never →
        exec (.rdb ack) s = left { s with ctrl := if ack then 0x44 else 0x04, status := status })

/-- What the seven primitives leave alone, whatever happens: the sensor engine, the buffer, the held registers (but
BITRATE by INIT), RESULT unless RDB or STAT, DATA unless WRB or RDB; and STAT leaves the whole bus engine alone. -/
def Obligations.PrimitiveFrame : Prop :=
  ∀ (i : Instr) (s t : State),
    (i = .init ∨ i = .start ∨ i = .rstart ∨ i = .stop ∨ (∃ b, i = .wrb b) ∨ (∃ a, i = .rdb a) ∨ i = .stat) →
    exec i s = .next t →
    SameSensor s t ∧ SameBuffer s t ∧ SameHeld { s with bitrate := t.bitrate } t
    ∧ (i ≠ .init → t.bitrate = s.bitrate)
    ∧ (i ≠ .stat → (∀ a, i ≠ .rdb a) → t.result = s.result)
    ∧ ((∀ b, i ≠ .wrb b) → (∀ a, i ≠ .rdb a) → t.data = s.data)
    ∧ (i = .stat → SameBus s t)
    ∧ (i = .init → t.phase = s.phase ∧ t.dir = s.dir ∧ t.hist = s.hist ∧ t.answers = s.answers
        ∧ t.busCount = s.busCount ∧ t.code = s.code)

/-! ### Transactions (spec/41_bus_transactions.md) -/

/-- WREG on a free bus with a device that acknowledges everything: the events, the registers, and nothing else (R162). -/
def Obligations.WregCompletes : Prop :=
  ∀ (dev : DevAddr) (reg value : Byte) (s : State) (rest : List Reply), s.en = true → s.owned = false →
    s.answers = ackedWrite ++ rest →
    exec (.wreg dev reg value) s = .next { s.finished with
      ctrl := 0x04, status := 0xF8#8 ||| (s.status &&& 0x03#8), data := value, phase := .stopped, dir := .w
      hist := s.hist ++ writeEvents dev reg value, answers := rest, busCount := s.busCount + 5 }

/-- RREG, and RBURST of any count from 1 to 255, on a free bus with a device that acknowledges everything and hands out
`bytes`: the events, the bytes in RXBUF in the order received, RX_LEN, RESULT and DATA the last byte (R163, R164). -/
def Obligations.ReadsComplete : Prop :=
  ∀ (dev : DevAddr) (reg count : Byte) (bytes : List Byte) (i : Instr) (s : State) (rest : List Reply),
    s.en = true → s.owned = false → bytes.length = count.toNat → count ≠ 0#8 →
    (i = .rburst dev reg count ∨ (i = .rreg dev reg ∧ count = 1#8)) → s.answers = ackedRead bytes ++ rest →
    exec i s = .next { s.finished with
      ctrl := 0x04, status := 0xF8#8 ||| (s.status &&& 0x03#8), phase := .stopped, dir := .w
      data := bytes.getLastD 0, result := bytes.getLastD 0
      rxbuf := storeBytes s.rxbuf 0 bytes, rxLen := count, idx := count
      hist := s.hist ++ readEvents dev reg bytes, answers := rest, busCount := s.busCount + 6 + bytes.length }

/-- Bytes stored one after the other are read back at their entries, and no other entry changes (R28). -/
def Obligations.StoredBytesAreReadBack : Prop :=
  ∀ (m : Memory) (n : Nat) (bytes : List Byte), m.wf = true → n + bytes.length ≤ 255 →
    (storeBytes m n bytes).wf = true
    ∧ (∀ k, k < bytes.length → (storeBytes m n bytes).read (n + k) = bytes.getD k 0)
    ∧ (∀ a, (a < n ∨ n + bytes.length ≤ a) → (storeBytes m n bytes).read a = m.read a)

/-- R166: RREG and a one-byte RBURST are the same from the same state with the same environment answers. -/
def Obligations.RregIsOneByteBurst : Prop :=
  ∀ (dev : DevAddr) (reg : Byte) (s : State), exec (.rreg dev reg) s = exec (.rburst dev reg 1#8) s

/-- A register read built from primitives, status polled after each, has the same bus history, CTRL, STATUS, DATA, PHASE
and DIR as RREG; it leaves the buffer alone and ends with RESULT 0x58 (R167, for an environment that acknowledges
everything). -/
def Obligations.PrimitivesBuildRreg : Prop :=
  ∀ (dev : DevAddr) (reg b : Byte) (s : State) (rest : List Reply), s.en = true → s.owned = false →
    s.rxbuf.wf = true → s.answers = ackedRead [b] ++ rest →
    ∃ t u, exec (.rreg dev reg) s = .next t
      ∧ execAll [.start, .stat, .wrb (slaW dev), .stat, .wrb reg, .stat, .rstart, .stat, .wrb (slaR dev), .stat,
          .rdb false, .stat, .stop] s = .next u
      ∧ u.hist = t.hist ∧ u.ctrl = t.ctrl ∧ u.status = t.status ∧ u.data = t.data ∧ u.phase = t.phase ∧ u.dir = t.dir
      ∧ SameBuffer s u ∧ u.result = 0x58#8 ∧ t.result = b ∧ t.rxbuf.read 0 = b
      ∧ t.rxLen = 1#8

/-- R160 to R165, R250, R272, R275, R277, R281 for every transaction and sensor command whose preconditions hold: the next
state is what the step tables (`busPlan`) and the environment's replies make of it (`play`): each step's action in order, the
first status that is not the one required ending the command with exactly its error record, an action that is never answered
ending it in BusTimeout or in a hang at that step, and under `STOP_ON_ABORT` the stop of the abort and nothing more. It goes
so for some replies whatever the environment is, and for the scripted ones where the script has a reply of the outcome set
for every action (log entry 1). And a WREG that is refused or fails without a stop has put on the bus a part of the complete
transaction and at most the one event of the failing step. -/
def Obligations.TransactionsFollowTheStepTables : Prop :=
  (∀ (i : Instr) (s : State), maySequence s i →
    ∃ t, exec i s = .next t
      ∧ (∃ replies out, play s.cfg (busPlan i) s.busView replies = some out ∧ out.Left s t)
      ∧ (∀ out, play s.cfg (busPlan i) s.busView s.answers = some out → out.Left s t))
  ∧ ∀ (dev : DevAddr) (reg value : Byte) (s t : State), s.cfg.stopOnAbort = false →
    exec (.wreg dev reg value) s = .next t →
    (t.ok = true ∧ t.hist = s.hist ++ writeEvents dev reg value)
    ∨ (t.ok = false ∧ ∃ n last, n ≤ 4 ∧ last.length ≤ 1
        ∧ t.hist = s.hist ++ (writeEvents dev reg value).take n ++ last)

/-- The held-bus hazard (R304): while the controller still owns the bus, every transaction and sensor command aborts at T1
with `REP_START`, which its record keeps. Without `STOP_ON_ABORT` nothing but that repeated start goes over the bus. With it
(scripted replies, log entry 1) the stop follows; if the stop is not answered, a finite `WAIT_LIMIT` drops its timeout, with
`CTRL.STO` 1 and the phase as it was, and `inf` hangs (R165, R275, R277). -/
def Obligations.HeldBusAbortsTransactions : Prop :=
  ∀ (i : Instr) (s : State) (e : Word), s.en = true → s.owned = true →
    ((e = 0x01100811#32 ∧ ((∃ dev reg v, i = .wreg dev reg v) ∨ (∃ dev reg, i = .rreg dev reg)
        ∨ (∃ dev reg c, i = .rburst dev reg c ∧ c ≠ 0#8) ∨ (∃ dev, i = .reqm dev)
        ∨ (s.measOk = true ∧ ((∃ dev, i = .rdrt dev) ∨ ∃ dev, i = .rdrp dev))))
      ∨ (e = 0x01100812#32 ∧ ∃ dev, i = .ldcal dev)
      ∨ (e = 0x11100812#32 ∧ ∃ dev, i = .sinit dev)
      ∨ (e = 0x21100811#32 ∧ s.calValid = true ∧ ∃ dev, i = .sread dev)) →
    (s.cfg.stopOnAbort = false → s.startReply = .done →
      ∃ t, exec i s = .next t ∧ t.fail = true ∧ t.err = e ∧ t.phase = .started ∧ t.hist = s.hist ++ [.repStart])
    ∧ (s.cfg.stopOnAbort = true → ∀ rest, s.answers = .done :: .done :: rest →
      ∃ t, exec i s = .next t ∧ t.ok = false ∧ t.fail = true ∧ t.err = e ∧ t.phase = .stopped ∧ t.code = 0xF8#8
        ∧ t.hist = s.hist ++ [.repStart, .stop])
    ∧ (s.cfg.stopOnAbort = true → ∀ rest, s.answers = .done :: .never :: rest →
      ∃ t, exec i s = .next t ∧ t.ok = false ∧ t.ctrl = 0x14#8 ∧ t.code = 0xF8#8 ∧ t.phase = .started
        ∧ t.hist = s.hist ++ [.repStart]
        ∧ (∀ n, s.cfg.waitLimit = .finite n → t.busy = false ∧ t.fail = true ∧ t.err = e)
        ∧ (s.cfg.waitLimit = .inf → t.busy = true ∧ t.fail = false))

/-- A read that does not succeed once it has begun, and one that hangs, leave RX_LEN 0: the bytes stored are no result
(R28, R275). -/
def Obligations.FailedReadMarksBufferInvalid : Prop :=
  ∀ (i : Instr) (s t : State), s.en = true →
    ((∃ dev reg, i = .rreg dev reg) ∨ (∃ dev reg c, i = .rburst dev reg c ∧ c ≠ 0#8) ∨ (∃ dev, i = .ldcal dev)
      ∨ (s.measOk = true ∧ ((∃ dev, i = .rdrt dev) ∨ ∃ dev, i = .rdrp dev))) →
    exec i s = .next t → t.ok = false → t.rxLen = 0#8

/-- What the three transactions leave alone, whatever happens: the sensor engine and the held registers; WREG also the
buffer and RESULT, a read every entry of RXBUF at and above its count. -/
def Obligations.TransactionFrame : Prop :=
  ∀ (dev : DevAddr) (reg v : Byte) (s t : State),
    (exec (.wreg dev reg v) s = .next t → SameSensor s t ∧ SameHeld s t ∧ SameBuffer s t ∧ t.result = s.result)
    ∧ (exec (.rreg dev reg) s = .next t → SameSensor s t ∧ SameHeld s t ∧ SameEntriesFrom 1 s t)
    ∧ (exec (.rburst dev reg v) s = .next t → SameSensor s t ∧ SameHeld s t ∧ SameEntriesFrom v.toNat s t)

/-! ### Sensor access (spec/42_sensor_access.md) -/

/-- R191: the 24 bytes of a coefficient record, low byte of each field first, decode to the record; and decoding loses
nothing: the record's bytes are the bytes decoded. T1 and P1 read unsigned, the rest signed. -/
def Obligations.CalibrationRoundTrip : Prop :=
  (∀ c : Calib, c.bytes.length = 24 ∧ Calib.ofBytes (fun k => c.bytes.getD k 0) = c)
  ∧ (∀ b : Nat → Byte, (Calib.ofBytes b).bytes = (List.range 24).map b)
  ∧ (∀ b : Nat → Byte, ∀ k, k < 12 →
      ∃ v : Word, (Calib.ofBytes b).hostWord k = some v
        ∧ v.toInt = (let w : Int := (b (2 * k)).toNat + 256 * (b (2 * k + 1)).toNat
            if k = 0 ∨ k = 3 then w else if w < 32768 then w else w - 65536))

/-- R195: the raw code is the 24-bit value of the three bytes, first byte most significant, shifted right by 4. -/
def Obligations.RawCodeAssembly : Prop :=
  (∀ b0 b1 b2 : Byte, (raw20 b0 b1 b2).toNat = (b0.toNat * 65536 + b1.toNat * 256 + b2.toNat) / 16)
  ∧ raw20 0x7E 0xED 0x00 = 519888 ∧ raw20 0x65 0x5A 0xC0 = 415148 ∧ raw20 0xFF 0xFF 0xFF = 1048575
  ∧ raw20 0x80 0x00 0x00 = 524288 ∧ raw20 0x00 0x00 0x1F = 1

/-- LDCAL on a free bus with a device that hands out 24 bytes: all twelve coefficients, `CAL_VALID`, the buffer, the events
(R190). -/
def Obligations.LdcalCompletes : Prop :=
  ∀ (dev : DevAddr) (bytes : List Byte) (s : State) (rest : List Reply), s.en = true → s.owned = false →
    s.rxbuf.wf = true → bytes.length = 24 → s.answers = ackedRead bytes ++ rest →
    ∃ t, exec (.ldcal dev) s = .next t ∧ t.ok = true ∧ t.err = 0#32 ∧ t.calValid = true
      ∧ t.cal = Calib.ofBytes (fun k => bytes.getD k 0) ∧ t.rxbuf = storeBytes s.rxbuf 0 bytes ∧ t.rxLen = 24#8
      ∧ t.hist = s.hist ++ readEvents dev 0x88 bytes ∧ t.phase = .stopped ∧ t.answers = rest

/-- LDCAL sets all twelve coefficients from the bytes received, or none (R190, R37); a REQM that does not succeed leaves no
current cycle, and a raw read that was begun and does not succeed leaves its code and clears its flag (R192 to R194). -/
def Obligations.SensorAccessFailures : Prop :=
  ∀ (dev : DevAddr) (s t : State), s.en = true →
    (exec (.ldcal dev) s = .next t →
      (t.ok = true ∧ t.calValid = true ∧ t.cal = Calib.ofBytes t.rxbuf.read)
      ∨ (t.ok = false ∧ t.calValid = s.calValid ∧ t.cal = s.cal))
    ∧ (exec (.reqm dev) s = .next t → t.ok = false →
      t.measOk = false ∧ t.rawTValid = false ∧ t.rawPValid = false ∧ t.tFineValid = false)
    ∧ (s.measOk = true → exec (.rdrt dev) s = .next t → t.ok = false → t.rawTValid = false ∧ t.rawT = s.rawT)
    ∧ (s.measOk = true → exec (.rdrp dev) s = .next t → t.ok = false → t.rawPValid = false ∧ t.rawP = s.rawP)

/-- REQM on a free bus with a device that acknowledges everything opens a cycle: `MEAS_OK` set, the three other cycle flags
clear, the write of 0x25 to 0xF4 on the bus, and nothing else (R192). -/
def Obligations.ReqmCompletes : Prop :=
  ∀ (dev : DevAddr) (s : State) (rest : List Reply), s.en = true → s.owned = false → s.answers = ackedWrite ++ rest →
    exec (.reqm dev) s = .next { s.finished with
      measOk := true, rawTValid := false, rawPValid := false, tFineValid := false
      ctrl := 0x04, status := 0xF8#8 ||| (s.status &&& 0x03#8), data := 0x25, phase := .stopped, dir := .w
      hist := s.hist ++ writeEvents dev 0xF4 0x25, answers := rest, busCount := s.busCount + 5 }

/-- RDRT and RDRP in an open cycle, on a free bus with a device that hands out three bytes: the raw code, its flag, the
buffer, the events (R193, R194). -/
def Obligations.RawReadsComplete : Prop :=
  ∀ (dev : DevAddr) (b0 b1 b2 : Byte) (s : State) (rest : List Reply), s.en = true → s.owned = false →
    s.measOk = true → s.rxbuf.wf = true → s.answers = ackedRead [b0, b1, b2] ++ rest →
    let read := { s.finished with
      ctrl := 0x04, status := 0xF8#8 ||| (s.status &&& 0x03#8), data := b2, result := b2, phase := .stopped, dir := .w
      rxbuf := storeBytes s.rxbuf 0 [b0, b1, b2], rxLen := 3, idx := 3, answers := rest, busCount := s.busCount + 9 }
    exec (.rdrt dev) s = .next { read with
      rawT := raw20 b0 b1 b2, rawTValid := true, hist := s.hist ++ readEvents dev 0xFA [b0, b1, b2] }
    ∧ exec (.rdrp dev) s = .next { read with
      rawP := raw20 b0 b1 b2, rawPValid := true, hist := s.hist ++ readEvents dev 0xF7 [b0, b1, b2] }

/-- What the four sensor-access commands leave alone, whatever happens. -/
def Obligations.SensorAccessFrame : Prop :=
  ∀ (dev : DevAddr) (s t : State),
    (exec (.ldcal dev) s = .next t → SameHeld s t ∧ SameEntriesFrom 24 s t
      ∧ SameSensor { s with cal := t.cal, calValid := t.calValid } t)
    ∧ (exec (.reqm dev) s = .next t → SameHeld s t ∧ SameBuffer s t ∧ t.result = s.result
      ∧ SameSensor { s with measOk := t.measOk, rawTValid := t.rawTValid, rawPValid := t.rawPValid
                            tFineValid := t.tFineValid } t)
    ∧ (exec (.rdrt dev) s = .next t → SameHeld s t ∧ SameEntriesFrom 3 s t
      ∧ SameSensor { s with rawT := t.rawT, rawTValid := t.rawTValid } t)
    ∧ (exec (.rdrp dev) s = .next t → SameHeld s t ∧ SameEntriesFrom 3 s t
      ∧ SameSensor { s with rawP := t.rawP, rawPValid := t.rawPValid } t)

/-! ### Compensation (spec/43_compensation.md) -/

/-- R210: the signed operations are exact arithmetic narrowed by `wrap32`, and `wrap32 z` is the one `i32` congruent to `z`
modulo 2^32; a right shift rounds toward minus infinity. -/
def Obligations.SignedArithmetic : Prop :=
  (∀ z w : Int, (-2147483648 ≤ w ∧ w ≤ 2147483647 ∧ ∃ k : Int, w = z + k * 4294967296) ↔ w = wrap32 z)
  ∧ (∀ a b : Word, (add32 a b).toInt = wrap32 (a.toInt + b.toInt) ∧ (sub32 a b).toInt = wrap32 (a.toInt - b.toInt)
      ∧ (mul32 a b).toInt = wrap32 (a.toInt * b.toInt))
  ∧ (∀ (a : Word) (n : Nat), n ≤ 31 → (shl32 a n).toInt = wrap32 (a.toInt * 2 ^ n)
      ∧ (asr32 a n).toInt = Int.floor ((a.toInt : ℚ) / 2 ^ n))

/-- R211: the unsigned operations. -/
def Obligations.UnsignedArithmetic : Prop :=
  (∀ a b : Word, (uadd32 a b).toNat = (a.toNat + b.toNat) % 4294967296
      ∧ ((usub32 a b).toNat : Int) = ((a.toNat : Int) - b.toNat) % 4294967296
      ∧ (umul32 a b).toNat = a.toNat * b.toNat % 4294967296
      ∧ (b ≠ 0#32 → (udiv32 a b).toNat = a.toNat / b.toNat))
  ∧ (∀ (a : Word) (n : Nat), n ≤ 31 → (ushl32 a n).toNat = a.toNat * 2 ^ n % 4294967296
      ∧ (ushr32 a n).toNat = a.toNat / 2 ^ n)

/-- `comp_T` is R213's integer pseudocode, for every operand, and gives its worked example; and (R214) `t_fine` is below
2^21 in magnitude whatever the coefficients, so that the temperature is the exact quotient: its last operations do not
wrap. (Only the pressure body leaves a choice: log entry 14.) -/
def Obligations.TemperatureIsTheIntegerRoutine : Prop :=
  (∀ (raw : RawCode) (t1 t2 t3 : BitVec 16),
    (compTFine raw t1 t2 t3).toInt = intTFine raw.toNat t1.toNat t2.toInt t3.toInt
    ∧ |(compTFine raw t1 t2 t3).toInt| < 2097152
    ∧ (compTemp (compTFine raw t1 t2 t3)).toInt = ((compTFine raw t1 t2 t3).toInt * 5 + 128) / 256)
  ∧ (∀ f : Word, (compTemp f).toInt = intTemp f.toInt)
  ∧ compTFine 519888 27504 26435 (-1000) = 128422#32 ∧ compTemp 128422#32 = 2508#32

/-- `comp_P` is R218's integer pseudocode, for every operand, and gives its worked example. With `P1 = 0` the guard is taken,
and a taken guard gives pressure 0, whatever the other inputs (R217). That the body is R218's, and no free function under R217, is the choice of log entry
14. -/
def Obligations.PressureIsTheIntegerRoutine : Prop :=
  (∀ (raw : RawCode) (f : Word) (c : Calib),
    intCompP raw.toNat f.toInt c.p1.toNat c.p2.toInt c.p3.toInt c.p4.toInt c.p5.toInt c.p6.toInt c.p7.toInt
        c.p8.toInt c.p9.toInt
      = (((compP raw f c).1.toNat : Int), (compP raw f c).2)
    ∧ (c.p1 = 0#16 → compP raw f c = (0#32, true))
    ∧ ((compP raw f c).2 = true → (compP raw f c).1 = 0#32))
  ∧ compP 415148 128422
      { Calib.zero with p1 := 36477, p2 := -10685, p3 := 3024, p4 := 2855, p5 := 140, p6 := -7, p7 := 15500, p8 := -14600
                        p9 := 6000 } = (100656#32, false)

/-- CMPT with calibration and a raw temperature: TEMP, T_FINE and TFINE_VALID together, and nothing else (R215). -/
def Obligations.CmptResult : Prop :=
  ∀ s : State, s.en = true → s.calValid = true → s.rawTValid = true →
    exec .cmpt s = .next { s.finished with
      temp := compTemp (compTFine s.rawT s.cal.t1 s.cal.t2 s.cal.t3)
      tFine := compTFine s.rawT s.cal.t1 s.cal.t2 s.cal.t3, tFineValid := true }

/-- CMPP with calibration, a raw pressure and a current `t_fine`: PRESS and DIVG, and nothing else; a taken guard is a
success with pressure 0 (R219, R280). The pressure body is R218's (log entry 14). -/
def Obligations.CmppResult : Prop :=
  ∀ s : State, s.en = true → s.calValid = true → s.rawPValid = true → s.tFineValid = true →
    exec .cmpp s = .next { s.finished with
      press := (compP s.rawP s.tFine s.cal).1, divg := (compP s.rawP s.tFine s.cal).2 }

/-- What CMPT and CMPP leave alone, whatever happens: the bus engine, the buffer, RESULT, the held registers and every
sensor register but their own (R220). -/
def Obligations.CompensationFrame : Prop :=
  ∀ s t : State,
    (exec .cmpt s = .next t → SameBus s t ∧ SameBuffer s t ∧ SameHeld s t ∧ t.result = s.result
      ∧ SameSensor { s with temp := t.temp, tFine := t.tFine, tFineValid := t.tFineValid } t)
    ∧ (exec .cmpp s = .next t → SameBus s t ∧ SameBuffer s t ∧ SameHeld s t ∧ t.result = s.result
      ∧ SameSensor { s with press := t.press, divg := t.divg } t)

/-! ### Measurement cycles (spec/44_measurement_cycles.md) -/

/-- R254: the running average; its monotone approach to a constant sample without crossing it, and where it stops; ten
cycles from the seed 0; and what a wrapping sum gives. -/
def Obligations.RunningAverage : Prop :=
  (∀ old x : Word, (avg old x).toNat = (old.toNat + x.toNat) % 4294967296 / 2
    ∧ (old.toNat + x.toNat < 4294967296 →
        (old.toNat ≤ x.toNat → old.toNat ≤ (avg old x).toNat ∧ (avg old x).toNat ≤ x.toNat)
        ∧ (x.toNat < old.toNat → x.toNat ≤ (avg old x).toNat ∧ (avg old x).toNat < old.toNat)
        ∧ (old.toNat = x.toNat + 1 → avg old x = x) ∧ (old.toNat + 1 = x.toNat → avg old x = old)))
  ∧ (List.replicate 10 2508#32).foldl avg 0#32 = 2505#32 ∧ (List.replicate 10 100656#32).foldl avg 0#32 = 100557#32
  ∧ avg 4294964788#32 2508#32 = 0#32 ∧ avg 0xFFFFFFFF#32 3#32 = 1#32
  ∧ avg 0#32 2508#32 = 1254#32 ∧ avg 5#32 2#32 = 3#32 ∧ avg 5000#32 2508#32 = 3754#32

/-- SREAD on a free bus with a calibration and a device that answers one cycle: the Reading is the compensated pair of that
cycle, from its own `t_fine`, with the 23 events of the cycle (R251, R252). The replies are scripted (log entry 1) and the
pressure body is R218's (log entry 14). -/
def Obligations.SreadCompletes : Prop :=
  ∀ (dev : DevAddr) (c : Sample) (s : State) (rest : List Reply), s.en = true → s.owned = false → s.calValid = true →
    s.rxbuf.wf = true → s.answers = c.replies ++ rest →
    ∃ t, exec (.sread dev) s = .next t ∧ t.ok = true ∧ t.err = 0#32
      ∧ t.rdT = c.temp s.cal ∧ t.rdP = c.press s.cal ∧ t.rawT = c.rawT ∧ t.rawP = c.rawP ∧ t.tFine = c.tFine s.cal
      ∧ t.temp = c.temp s.cal ∧ t.press = c.press s.cal ∧ t.divg = (compP c.rawP (c.tFine s.cal) s.cal).2
      ∧ t.measOk = true ∧ t.rawTValid = true ∧ t.rawPValid = true ∧ t.tFineValid = true
      ∧ t.hist = s.hist ++ c.events dev ∧ t.phase = .stopped ∧ t.answers = rest

/-- SINIT on a free bus with a device that hands out a calibration and answers ten cycles: the Reading is the seed smoothed
by the ten compensated samples, oldest first (R253, R254). The replies are scripted (log entry 1) and the pressure body is
R218's (log entry 14). -/
def Obligations.SinitCompletes : Prop :=
  ∀ (dev : DevAddr) (bytes : List Byte) (cs : List Sample) (s : State) (rest : List Reply),
    s.en = true → s.owned = false → s.rxbuf.wf = true → bytes.length = 24 → cs.length = 10 →
    s.answers = ackedRead bytes ++ cs.flatMap Sample.replies ++ rest →
    let k := Calib.ofBytes (fun n => bytes.getD n 0)
    ∃ t, exec (.sinit dev) s = .next t ∧ t.ok = true ∧ t.err = 0#32 ∧ t.cal = k ∧ t.calValid = true ∧ t.cyc = 10
      ∧ t.rdT = cs.foldl (fun old c => avg old (c.temp k)) s.rdT
      ∧ t.rdP = cs.foldl (fun old c => avg old (c.press k)) s.rdP
      ∧ t.accT = t.rdT ∧ t.accP = t.rdP
      ∧ t.hist = s.hist ++ readEvents dev 0x88 bytes ++ cs.flatMap (Sample.events dev) ∧ t.answers = rest

/-- The Reading changes at success only, both fields at once, to the last compensated pair (SREAD) or the accumulators
(SINIT, after ten cycles under a valid calibration) (R41, R252, R253, R255). -/
def Obligations.ReadingAllOrNothing : Prop :=
  ∀ (dev : DevAddr) (s t : State),
    (exec (.sread dev) s = .next t →
      (t.ok = true ∧ t.rdT = t.temp ∧ t.rdP = t.press) ∨ (t.ok = false ∧ t.rdT = s.rdT ∧ t.rdP = s.rdP))
    ∧ (exec (.sinit dev) s = .next t →
      (t.ok = true ∧ t.cyc = 10 ∧ t.calValid = true ∧ t.rdT = t.accT ∧ t.rdP = t.accP)
      ∨ (t.ok = false ∧ t.rdT = s.rdT ∧ t.rdP = s.rdP))

/-- What SREAD and SINIT leave alone, whatever happens: the held registers, the entries of RXBUF past those they read, and,
for SREAD, the calibration, the accumulators and CYC (R252). -/
def Obligations.CycleFrame : Prop :=
  ∀ (dev : DevAddr) (s t : State),
    (exec (.sread dev) s = .next t → SameHeld s t ∧ SameEntriesFrom 3 s t ∧ t.cal = s.cal ∧ t.calValid = s.calValid
      ∧ t.accT = s.accT ∧ t.accP = s.accP ∧ t.cyc = s.cyc)
    ∧ (exec (.sinit dev) s = .next t → SameHeld s t ∧ SameEntriesFrom 24 s t)

/-! ### The whole machine -/

/-- Only a reset clears `CTRL.EN` or `CAL_VALID`, and no step changes the parameters (R300, R278). -/
def Obligations.OnlyResetClearsEnableAndCalibration : Prop :=
  ∀ s t : State, step s = .next t →
    t.cfg = s.cfg
    ∧ ((∀ rest, s.inputs ≠ .reset :: rest) → (s.en = true → t.en = true) ∧ (s.calValid = true → t.calValid = true))

/-- The bus history only grows, but for a reset: no event is undone or reordered (R85, R275). -/
def Obligations.HistoryOnlyGrows : Prop :=
  ∀ s t : State, step s = .next t → (∀ rest, s.inputs ≠ .reset :: rest) → ∃ events, t.hist = s.hist ++ events

/-- Every step keeps RXBUF in its canonical form, inside entries 0 to 254, and the counters in their ranges (R28 to R30,
R35). -/
def Obligations.StepKeepsBufferAndCounters : Prop :=
  ∀ s t : State, s.BufferInv → s.CounterInv → step s = .next t → t.BufferInv ∧ t.CounterInv

/-- Every step keeps the reserved bits of CTRL and STATUS at 0 and the status code one of the thirteen (R21, R22, R139). -/
def Obligations.StepKeepsRegisters : Prop :=
  ∀ s t : State, s.RegisterInv → step s = .next t → t.RegisterInv

/-- Every step keeps the phase in agreement with the bus history, and DIR 0 outside the phases that have a direction
(R25, R26). -/
def Obligations.StepKeepsOwnership : Prop :=
  ∀ s t : State, s.OwnershipInv → step s = .next t → t.OwnershipInv

/-- Every step keeps the cycle flags in order: no raw code or `T_FINE` is valid outside a cycle (R43, R216). -/
def Obligations.StepKeepsCycleFlags : Prop :=
  ∀ s t : State, s.CycleInv → step s = .next t → t.CycleInv

/-- Every step keeps an idle controller at `pc = (S0, T0)` with at most one of OK and FAIL, and ERR 0 or a record with codes
in range, not 0 after a failure (R47, R32, R36, R270, R272). -/
def Obligations.StepKeepsOutcomeAndErrorRecord : Prop :=
  ∀ s t : State, s.OutcomeInv → s.ErrorInv → step s = .next t → t.OutcomeInv ∧ t.ErrorInv

/-- Every step keeps the bus and the calibration untouched until INIT has run (R303). -/
def Obligations.BusAndFlagsUntouchedBeforeInit : Prop :=
  ∀ s t : State, s.EnableInv → step s = .next t → t.EnableInv

/-- The reset state meets every invariant, for every value of the parameters. -/
def Obligations.ResetMeetsEveryInvariant : Prop :=
  ∀ cfg : Params, (State.resetWith cfg).BufferInv ∧ (State.resetWith cfg).RegisterInv
    ∧ (State.resetWith cfg).OwnershipInv ∧ (State.resetWith cfg).CycleInv ∧ (State.resetWith cfg).OutcomeInv
    ∧ (State.resetWith cfg).ErrorInv ∧ (State.resetWith cfg).EnableInv ∧ (State.resetWith cfg).CounterInv
end

