-- ==== Sys2Proof/Laws/Flags.lean ====
section
/-! SUPPORT. Status codes, STATUS and ERR: what a code written to STATUS reads as, that codes are distinct, and the fields
of an error record. -/

namespace Sys2Proof.Machine

@[simp] theorem StatusCode.byte_and_mask (c : StatusCode) : c.byte &&& 0xF8#8 = c.byte := by
  cases c <;> rfl

/-- `STATUS & 0xF8` after a code was written is that code (R22, R139). -/
@[simp] theorem withCode_and_mask (c : StatusCode) (st : Byte) : withCode c st &&& 0xF8#8 = c.byte := by
  have h : (3#8 &&& 0xF8#8 : Byte) = 0#8 := rfl
  unfold withCode
  rw [BitVec.and_comm, BitVec.and_or_distrib_left, BitVec.and_comm, StatusCode.byte_and_mask, BitVec.and_comm,
    BitVec.and_assoc, h]
  simp

/-- The prescaler bits survive a code (R22). -/
@[simp] theorem withCode_and_prescale (c : StatusCode) (st : Byte) : withCode c st &&& 0x03#8 = st &&& 0x03#8 := by
  have h : (c.byte &&& 3#8 : Byte) = 0#8 := by cases c <;> rfl
  unfold withCode
  rw [BitVec.and_comm, BitVec.and_or_distrib_left, BitVec.and_comm, h, BitVec.and_comm, BitVec.and_assoc]
  simp

/-- Writing a second code leaves nothing of the first. -/
@[simp] theorem withCode_withCode (c c' : StatusCode) (st : Byte) : withCode c (withCode c' st) = withCode c st := by
  show c.byte ||| (withCode c' st &&& 0x03#8) = c.byte ||| (st &&& 0x03#8)
  rw [withCode_and_prescale]

/-- The thirteen codes are distinct (R139). -/
theorem StatusCode.byte_injective : ∀ {c c' : StatusCode}, c.byte = c'.byte → c = c' := by
  intro c c'
  cases c <;> cases c' <;> decide

@[simp] theorem StatusCode.byte_inj {c c' : StatusCode} : c.byte = c'.byte ↔ c = c' :=
  ⟨StatusCode.byte_injective, fun h => h ▸ rfl⟩

theorem startCode_owned : startCode true = .repStart := rfl
theorem startCode_free : startCode false = .start := rfl

/-- `ERR.KIND` of a record (R36). -/
theorem ErrInfo.word_kind (e : ErrInfo) : e.word.extractLsb' 0 4 = e.kind.code := by
  ext i hi
  interval_cases i <;> simp [ErrInfo.word]

/-- `ERR.GOT` of a record (R36). -/
theorem ErrInfo.word_got (e : ErrInfo) : e.word.extractLsb' 16 8 = e.got := by
  ext i hi
  interval_cases i <;> simp [ErrInfo.word]

/-- The record of a refusal is its kind alone (R274). -/
theorem ErrInfo.refusal_word (k : ErrKind) : (ErrInfo.refusal k).word = k.code.setWidth 32 := by
  cases k <;> decide

end Sys2Proof.Machine
end

