-- ==== Sys2Proof/Laws/Memory.lean ====
section
/-! SUPPORT. RXBUF: read after write, the canonical form, and equality of canonical buffers from equality of their reads. -/

namespace Sys2Proof.Machine

@[simp] theorem Memory.read_nil (n : Nat) : Memory.read [] n = 0#8 := rfl

theorem Memory.read_cons (a : Nat) (b : Byte) (rest : Memory) (n : Nat) :
    Memory.read ((a, b) :: rest) n = if n = a then b else Memory.read rest n := rfl

@[simp] theorem Memory.wf_nil : Memory.wf [] = true := rfl

theorem Memory.wfFrom_cons (lo a : Nat) (b : Byte) (rest : Memory) :
    Memory.wfFrom lo ((a, b) :: rest) = true ↔
      lo ≤ a ∧ a < rxbufSize ∧ b ≠ 0#8 ∧ Memory.wfFrom (a + 1) rest = true := by
  simp [Memory.wfFrom, and_assoc]

theorem Memory.wfFrom_weaken {lo lo' : Nat} (h : lo ≤ lo') :
    ∀ {m : Memory}, Memory.wfFrom lo' m = true → Memory.wfFrom lo m = true
  | [], _ => rfl
  | (a, b) :: rest, hm => by
    rw [Memory.wfFrom_cons] at hm ⊢
    exact ⟨h.trans hm.1, hm.2⟩

/-- A canonical buffer reads 0 below its first address. -/
theorem Memory.read_below : ∀ {lo : Nat} {m : Memory}, Memory.wfFrom lo m = true →
    ∀ {n : Nat}, n < lo → m.read n = 0#8
  | _, [], _, _, _ => rfl
  | lo, (a, b) :: rest, hm, n, hn => by
    obtain ⟨h1, -, -, h2⟩ := (Memory.wfFrom_cons ..).1 hm
    rw [Memory.read_cons, if_neg (by omega)]
    exact Memory.read_below h2 (by omega)

/-- A write leaves every other entry alone, in any buffer. -/
theorem Memory.read_write_other : ∀ (m : Memory) {n k : Nat} (v : Byte), k ≠ n →
    (m.write n v).read k = m.read k
  | [], n, k, v, h => by
    unfold Memory.write; split
    · rfl
    · simp [Memory.read_cons, h]
  | (a, b) :: rest, n, k, v, h => by
    have ih := Memory.read_write_other rest v h
    unfold Memory.write
    split
    · split
      · rfl
      · simp [Memory.read_cons, h]
    · split
      · rename_i hna
        subst hna
        split <;> simp [Memory.read_cons, h]
      · simp [Memory.read_cons, ih]

/-- A read after a write to the same entry of a canonical buffer gives the byte written. -/
theorem Memory.read_write_same_from : ∀ {lo : Nat} {m : Memory}, Memory.wfFrom lo m = true →
    ∀ (n : Nat) (v : Byte), (m.write n v).read n = v
  | _, [], _, n, v => by
    unfold Memory.write; split
    · simp_all
    · simp [Memory.read_cons]
  | lo, (a, b) :: rest, hm, n, v => by
    obtain ⟨-, -, -, h2⟩ := (Memory.wfFrom_cons ..).1 hm
    have ih := Memory.read_write_same_from h2 n v
    unfold Memory.write
    split
    · rename_i hlt
      split
      · rename_i hv
        rw [hv, Memory.read_cons, if_neg (by omega)]
        exact Memory.read_below h2 (by omega)
      · simp [Memory.read_cons]
    · split
      · rename_i hna
        subst hna
        split
        · rename_i hv
          rw [hv]
          exact Memory.read_below h2 (by omega)
        · simp [Memory.read_cons]
      · rename_i hne
        rw [Memory.read_cons, if_neg hne, ih]

theorem Memory.read_write_same {m : Memory} (h : m.wf = true) (n : Nat) (v : Byte) :
    (m.write n v).read n = v :=
  Memory.read_write_same_from h n v

/-- A write inside RXBUF keeps the canonical form. -/
theorem Memory.wfFrom_write : ∀ {lo : Nat} {m : Memory}, Memory.wfFrom lo m = true →
    ∀ {n : Nat} (v : Byte), lo ≤ n → n < rxbufSize → Memory.wfFrom lo (m.write n v) = true
  | lo, [], _, n, v, h1, h2 => by
    unfold Memory.write; split
    · rfl
    · rw [Memory.wfFrom_cons]
      exact ⟨h1, h2, by assumption, rfl⟩
  | lo, (a, b) :: rest, hm, n, v, h1, h2 => by
    have hm' := (Memory.wfFrom_cons ..).1 hm
    obtain ⟨g1, g2, g3, g4⟩ := hm'
    unfold Memory.write
    split
    · rename_i hlt
      split
      · exact hm
      · rename_i hv
        rw [Memory.wfFrom_cons, Memory.wfFrom_cons]
        exact ⟨h1, h2, hv, hlt, g2, g3, g4⟩
    · rename_i hge
      split
      · rename_i hna
        subst hna
        split
        · exact Memory.wfFrom_weaken (by omega) g4
        · rename_i hv
          rw [Memory.wfFrom_cons]
          exact ⟨g1, g2, hv, g4⟩
      · rename_i hne
        rw [Memory.wfFrom_cons]
        exact ⟨g1, g2, g3, Memory.wfFrom_write g4 v (by omega) h2⟩

theorem Memory.wf_write {m : Memory} (h : m.wf = true) {n : Nat} (v : Byte) (hn : n < rxbufSize) :
    (m.write n v).wf = true :=
  Memory.wfFrom_write h v (Nat.zero_le n) hn

/-- Two canonical buffers with the same reads are the same data. -/
theorem Memory.ext_wfFrom : ∀ {lo : Nat} {m m' : Memory}, Memory.wfFrom lo m = true → Memory.wfFrom lo m' = true →
    (∀ n, m.read n = m'.read n) → m = m'
  | _, [], [], _, _, _ => rfl
  | _, [], (a, b) :: rest, _, h', e => by
    obtain ⟨-, -, g, -⟩ := (Memory.wfFrom_cons ..).1 h'
    have := e a
    rw [Memory.read_cons, if_pos rfl] at this
    exact absurd this.symm g
  | _, (a, b) :: rest, [], h, _, e => by
    obtain ⟨-, -, g, -⟩ := (Memory.wfFrom_cons ..).1 h
    have := e a
    rw [Memory.read_cons, if_pos rfl] at this
    exact absurd this g
  | _, (a, b) :: rest, (a', b') :: rest', h, h', e => by
    obtain ⟨-, -, g, r⟩ := (Memory.wfFrom_cons ..).1 h
    obtain ⟨-, -, g', r'⟩ := (Memory.wfFrom_cons ..).1 h'
    have ha : a = a' := by
      rcases Nat.lt_trichotomy a a' with hlt | heq | hgt
      · have := e a
        rw [Memory.read_cons, if_pos rfl, Memory.read_cons, if_neg (by omega),
          Memory.read_below r' (by omega)] at this
        exact absurd this g
      · exact heq
      · have := e a'
        rw [Memory.read_cons, if_neg (by omega), Memory.read_cons, if_pos rfl,
          Memory.read_below r (by omega)] at this
        exact absurd this.symm g'
    subst ha
    have hb : b = b' := by simpa [Memory.read_cons] using e a
    subst hb
    have : rest = rest' := Memory.ext_wfFrom r r' fun n => by
      have := e n
      by_cases hn : n = a
      · rw [hn, Memory.read_below r (by omega), Memory.read_below r' (by omega)]
      · simpa [Memory.read_cons, hn] using this
    rw [this]

theorem Memory.ext {m m' : Memory} (h : m.wf = true) (h' : m'.wf = true) (e : ∀ n, m.read n = m'.read n) : m = m' :=
  Memory.ext_wfFrom h h' e

end Sys2Proof.Machine
end

