-- ==== Sys2Proof/Laws/Run.lean ====
section
/-! SUPPORT. Sequencing and the command frame: what a run made of parts ends in, and what `runCommand` answers. -/

namespace Sys2Proof.Machine

@[simp] theorem Run.done_andThen (s : State) (k : State → Run) : (Run.done s).andThen k = k s := rfl
@[simp] theorem Run.failed_andThen (s : State) (k : State → Run) : (Run.failed s).andThen k = .failed s := rfl
@[simp] theorem Run.hung_andThen (s : State) (k : State → Run) : (Run.hung s).andThen k = .hung s := rfl

/-- Where a run ends: in `D` when it is done, in `F` when it has failed, in `H` when it hangs. -/
def Run.Ends (D F H : State → Prop) : Run → Prop
  | .done s => D s
  | .failed s => F s
  | .hung s => H s

theorem Run.Ends.mono {D D' F F' H H' : State → Prop} {r : Run} (h : r.Ends D F H)
    (hD : ∀ s, D s → D' s) (hF : ∀ s, F s → F' s) (hH : ∀ s, H s → H' s) : r.Ends D' F' H' := by
  cases r with
  | done s => exact hD s h
  | failed s => exact hF s h
  | hung s => exact hH s h

/-- The rule of sequencing. -/
theorem Run.Ends.andThen {D D' F H : State → Prop} {r : Run} {k : State → Run} (h : r.Ends D F H)
    (hk : ∀ s, D s → (k s).Ends D' F H) : (r.andThen k).Ends D' F H := by
  cases r with
  | done s => exact hk s h
  | failed s => exact h
  | hung s => exact h

/-! What a command sees of a state does not depend on the opening of its frame. -/

@[simp] theorem State.beginCommand_en (s : State) : s.beginCommand.en = s.en := rfl
@[simp] theorem State.beginCommand_owned (s : State) : s.beginCommand.owned = s.owned := rfl
@[simp] theorem State.beginCommand_code (s : State) : s.beginCommand.code = s.code := rfl
@[simp] theorem State.beginCommand_mayWrite (s : State) : s.beginCommand.mayWrite = s.mayWrite := rfl
@[simp] theorem State.beginCommand_mayRead (s : State) : s.beginCommand.mayRead = s.mayRead := rfl
@[simp] theorem State.beginCommand_startReply (s : State) : s.beginCommand.startReply = s.startReply := rfl
@[simp] theorem State.beginCommand_sendReply (s : State) (b : Byte) : s.beginCommand.sendReply b = s.sendReply b := rfl
@[simp] theorem State.beginCommand_recvReply (s : State) (a : Bool) : s.beginCommand.recvReply a = s.recvReply a := rfl
@[simp] theorem State.beginCommand_stopReply (s : State) : s.beginCommand.stopReply = s.stopReply := rfl

@[simp] theorem firstRefusal_nil : firstRefusal [] = none := rfl

@[simp] theorem firstRefusal_cons (b : Bool) (k : ErrKind) (rest : List Check) :
    firstRefusal ((b, k) :: rest) = if b then firstRefusal rest else some k := rfl

theorem firstRefusal_eq_none {cs : List Check} : firstRefusal cs = none ↔ ∀ c ∈ cs, c.1 = true := by
  induction cs with
  | nil => simp
  | cons c rest ih => obtain ⟨b, k⟩ := c; cases b <;> simp [firstRefusal, ih]

/-- A refused command. -/
theorem runCommand_refused {checks : State → List Check} {body : State → Run} {s : State} {k : ErrKind}
    (h : firstRefusal (checks s.beginCommand) = some k) :
    runCommand checks body s = .next (s.beginCommand.refuse k) := by
  simp [runCommand, h]

/-- A command that is not refused is its body. -/
theorem runCommand_admitted {checks : State → List Check} {body : State → Run} {s : State}
    (h : firstRefusal (checks s.beginCommand) = none) :
    runCommand checks body s = (body s.beginCommand).outcome := by
  simp [runCommand, h]

/-- Everything a command can answer: a refusal, or the end of its body, always a next state. -/
theorem runCommand_cases (checks : State → List Check) (body : State → Run) (s : State) :
    (∃ k, firstRefusal (checks s.beginCommand) = some k
        ∧ runCommand checks body s = .next (s.beginCommand.refuse k))
    ∨ (firstRefusal (checks s.beginCommand) = none
        ∧ ((∃ t, body s.beginCommand = .done t ∧ runCommand checks body s = .next t.succeed)
          ∨ (∃ t, body s.beginCommand = .failed t ∧ runCommand checks body s = .next t)
          ∨ (∃ t, body s.beginCommand = .hung t ∧ runCommand checks body s = .next t))) := by
  cases h : firstRefusal (checks s.beginCommand) with
  | some k => exact .inl ⟨k, rfl, runCommand_refused h⟩
  | none =>
    refine .inr ⟨rfl, ?_⟩
    rw [runCommand_admitted h]
    cases body s.beginCommand with
    | done t => exact .inl ⟨t, rfl, rfl⟩
    | failed t => exact .inr (.inl ⟨t, rfl, rfl⟩)
    | hung t => exact .inr (.inr ⟨t, rfl, rfl⟩)

/-- The rule of the command frame: what holds after a refusal and at every end of the body holds of the answer. -/
theorem runCommand_ends {checks : State → List Check} {body : State → Run} {s : State} {P : State → Prop}
    (hr : ∀ k, firstRefusal (checks s.beginCommand) = some k → P (s.beginCommand.refuse k))
    (hb : firstRefusal (checks s.beginCommand) = none → (body s.beginCommand).Ends (fun t => P t.succeed) P P) :
    ∃ t, runCommand checks body s = .next t ∧ P t := by
  obtain ⟨k, hk, e⟩ | ⟨hn, ⟨t, ht, e⟩ | ⟨t, ht, e⟩ | ⟨t, ht, e⟩⟩ := runCommand_cases checks body s
  · exact ⟨_, e, hr k hk⟩
  all_goals exact ⟨_, e, by simpa [ht, Run.Ends] using hb hn⟩

end Sys2Proof.Machine
end

