-- ==== Sys2Proof/Laws/State.lean ====
section
/-! SUPPORT. One lemma per field of State per named update, each true by unfolding, so that no proof unfolds a record
update. -/

namespace Sys2Proof.Machine

open Sys2Proof.Config

/-! ### `State.beginCommand` -/

@[simp] theorem State.beginCommand_ctrl (s : State) : s.beginCommand.ctrl = s.ctrl := rfl
@[simp] theorem State.beginCommand_status (s : State) : s.beginCommand.status = s.status := rfl
@[simp] theorem State.beginCommand_data (s : State) : s.beginCommand.data = s.data := rfl
@[simp] theorem State.beginCommand_bitrate (s : State) : s.beginCommand.bitrate = s.bitrate := rfl
@[simp] theorem State.beginCommand_phase (s : State) : s.beginCommand.phase = s.phase := rfl
@[simp] theorem State.beginCommand_dir (s : State) : s.beginCommand.dir = s.dir := rfl
@[simp] theorem State.beginCommand_result (s : State) : s.beginCommand.result = s.result := rfl
@[simp] theorem State.beginCommand_rxbuf (s : State) : s.beginCommand.rxbuf = s.rxbuf := rfl
@[simp] theorem State.beginCommand_rxLen (s : State) : s.beginCommand.rxLen = s.rxLen := rfl
@[simp] theorem State.beginCommand_idx (s : State) : s.beginCommand.idx = s.idx := rfl
@[simp] theorem State.beginCommand_cmd (s : State) : s.beginCommand.cmd = s.cmd := rfl
@[simp] theorem State.beginCommand_ok (s : State) : s.beginCommand.ok = false := rfl
@[simp] theorem State.beginCommand_fail (s : State) : s.beginCommand.fail = false := rfl
@[simp] theorem State.beginCommand_busy (s : State) : s.beginCommand.busy = true := rfl
@[simp] theorem State.beginCommand_err (s : State) : s.beginCommand.err = 0#32 := rfl
@[simp] theorem State.beginCommand_spc (s : State) : s.beginCommand.spc = .s0 := rfl
@[simp] theorem State.beginCommand_tpc (s : State) : s.beginCommand.tpc = .t0 := rfl
@[simp] theorem State.beginCommand_cyc (s : State) : s.beginCommand.cyc = s.cyc := rfl
@[simp] theorem State.beginCommand_cal (s : State) : s.beginCommand.cal = s.cal := rfl
@[simp] theorem State.beginCommand_rawT (s : State) : s.beginCommand.rawT = s.rawT := rfl
@[simp] theorem State.beginCommand_rawP (s : State) : s.beginCommand.rawP = s.rawP := rfl
@[simp] theorem State.beginCommand_tFine (s : State) : s.beginCommand.tFine = s.tFine := rfl
@[simp] theorem State.beginCommand_temp (s : State) : s.beginCommand.temp = s.temp := rfl
@[simp] theorem State.beginCommand_press (s : State) : s.beginCommand.press = s.press := rfl
@[simp] theorem State.beginCommand_rdT (s : State) : s.beginCommand.rdT = s.rdT := rfl
@[simp] theorem State.beginCommand_rdP (s : State) : s.beginCommand.rdP = s.rdP := rfl
@[simp] theorem State.beginCommand_accT (s : State) : s.beginCommand.accT = s.accT := rfl
@[simp] theorem State.beginCommand_accP (s : State) : s.beginCommand.accP = s.accP := rfl
@[simp] theorem State.beginCommand_calValid (s : State) : s.beginCommand.calValid = s.calValid := rfl
@[simp] theorem State.beginCommand_measOk (s : State) : s.beginCommand.measOk = s.measOk := rfl
@[simp] theorem State.beginCommand_rawTValid (s : State) : s.beginCommand.rawTValid = s.rawTValid := rfl
@[simp] theorem State.beginCommand_rawPValid (s : State) : s.beginCommand.rawPValid = s.rawPValid := rfl
@[simp] theorem State.beginCommand_tFineValid (s : State) : s.beginCommand.tFineValid = s.tFineValid := rfl
@[simp] theorem State.beginCommand_divg (s : State) : s.beginCommand.divg = s.divg := rfl
@[simp] theorem State.beginCommand_hist (s : State) : s.beginCommand.hist = s.hist := rfl
@[simp] theorem State.beginCommand_cfg (s : State) : s.beginCommand.cfg = s.cfg := rfl
@[simp] theorem State.beginCommand_answers (s : State) : s.beginCommand.answers = s.answers := rfl
@[simp] theorem State.beginCommand_busCount (s : State) : s.beginCommand.busCount = s.busCount := rfl
@[simp] theorem State.beginCommand_inputs (s : State) : s.beginCommand.inputs = s.inputs := rfl
@[simp] theorem State.beginCommand_hostLog (s : State) : s.beginCommand.hostLog = s.hostLog := rfl

/-! ### `State.succeed` -/

@[simp] theorem State.succeed_ctrl (s : State) : s.succeed.ctrl = s.ctrl := rfl
@[simp] theorem State.succeed_status (s : State) : s.succeed.status = s.status := rfl
@[simp] theorem State.succeed_data (s : State) : s.succeed.data = s.data := rfl
@[simp] theorem State.succeed_bitrate (s : State) : s.succeed.bitrate = s.bitrate := rfl
@[simp] theorem State.succeed_phase (s : State) : s.succeed.phase = s.phase := rfl
@[simp] theorem State.succeed_dir (s : State) : s.succeed.dir = s.dir := rfl
@[simp] theorem State.succeed_result (s : State) : s.succeed.result = s.result := rfl
@[simp] theorem State.succeed_rxbuf (s : State) : s.succeed.rxbuf = s.rxbuf := rfl
@[simp] theorem State.succeed_rxLen (s : State) : s.succeed.rxLen = s.rxLen := rfl
@[simp] theorem State.succeed_idx (s : State) : s.succeed.idx = s.idx := rfl
@[simp] theorem State.succeed_cmd (s : State) : s.succeed.cmd = s.cmd := rfl
@[simp] theorem State.succeed_ok (s : State) : s.succeed.ok = true := rfl
@[simp] theorem State.succeed_fail (s : State) : s.succeed.fail = s.fail := rfl
@[simp] theorem State.succeed_busy (s : State) : s.succeed.busy = false := rfl
@[simp] theorem State.succeed_err (s : State) : s.succeed.err = s.err := rfl
@[simp] theorem State.succeed_spc (s : State) : s.succeed.spc = s.spc := rfl
@[simp] theorem State.succeed_tpc (s : State) : s.succeed.tpc = s.tpc := rfl
@[simp] theorem State.succeed_cyc (s : State) : s.succeed.cyc = s.cyc := rfl
@[simp] theorem State.succeed_cal (s : State) : s.succeed.cal = s.cal := rfl
@[simp] theorem State.succeed_rawT (s : State) : s.succeed.rawT = s.rawT := rfl
@[simp] theorem State.succeed_rawP (s : State) : s.succeed.rawP = s.rawP := rfl
@[simp] theorem State.succeed_tFine (s : State) : s.succeed.tFine = s.tFine := rfl
@[simp] theorem State.succeed_temp (s : State) : s.succeed.temp = s.temp := rfl
@[simp] theorem State.succeed_press (s : State) : s.succeed.press = s.press := rfl
@[simp] theorem State.succeed_rdT (s : State) : s.succeed.rdT = s.rdT := rfl
@[simp] theorem State.succeed_rdP (s : State) : s.succeed.rdP = s.rdP := rfl
@[simp] theorem State.succeed_accT (s : State) : s.succeed.accT = s.accT := rfl
@[simp] theorem State.succeed_accP (s : State) : s.succeed.accP = s.accP := rfl
@[simp] theorem State.succeed_calValid (s : State) : s.succeed.calValid = s.calValid := rfl
@[simp] theorem State.succeed_measOk (s : State) : s.succeed.measOk = s.measOk := rfl
@[simp] theorem State.succeed_rawTValid (s : State) : s.succeed.rawTValid = s.rawTValid := rfl
@[simp] theorem State.succeed_rawPValid (s : State) : s.succeed.rawPValid = s.rawPValid := rfl
@[simp] theorem State.succeed_tFineValid (s : State) : s.succeed.tFineValid = s.tFineValid := rfl
@[simp] theorem State.succeed_divg (s : State) : s.succeed.divg = s.divg := rfl
@[simp] theorem State.succeed_hist (s : State) : s.succeed.hist = s.hist := rfl
@[simp] theorem State.succeed_cfg (s : State) : s.succeed.cfg = s.cfg := rfl
@[simp] theorem State.succeed_answers (s : State) : s.succeed.answers = s.answers := rfl
@[simp] theorem State.succeed_busCount (s : State) : s.succeed.busCount = s.busCount := rfl
@[simp] theorem State.succeed_inputs (s : State) : s.succeed.inputs = s.inputs := rfl
@[simp] theorem State.succeed_hostLog (s : State) : s.succeed.hostLog = s.hostLog := rfl

/-! ### `State.failWith` -/

@[simp] theorem State.failWith_ctrl (s : State) (e : ErrInfo) : (s.failWith e).ctrl = s.ctrl := rfl
@[simp] theorem State.failWith_status (s : State) (e : ErrInfo) : (s.failWith e).status = s.status := rfl
@[simp] theorem State.failWith_data (s : State) (e : ErrInfo) : (s.failWith e).data = s.data := rfl
@[simp] theorem State.failWith_bitrate (s : State) (e : ErrInfo) : (s.failWith e).bitrate = s.bitrate := rfl
@[simp] theorem State.failWith_phase (s : State) (e : ErrInfo) : (s.failWith e).phase = s.phase := rfl
@[simp] theorem State.failWith_dir (s : State) (e : ErrInfo) : (s.failWith e).dir = s.dir := rfl
@[simp] theorem State.failWith_result (s : State) (e : ErrInfo) : (s.failWith e).result = s.result := rfl
@[simp] theorem State.failWith_rxbuf (s : State) (e : ErrInfo) : (s.failWith e).rxbuf = s.rxbuf := rfl
@[simp] theorem State.failWith_rxLen (s : State) (e : ErrInfo) : (s.failWith e).rxLen = s.rxLen := rfl
@[simp] theorem State.failWith_idx (s : State) (e : ErrInfo) : (s.failWith e).idx = s.idx := rfl
@[simp] theorem State.failWith_cmd (s : State) (e : ErrInfo) : (s.failWith e).cmd = s.cmd := rfl
@[simp] theorem State.failWith_ok (s : State) (e : ErrInfo) : (s.failWith e).ok = s.ok := rfl
@[simp] theorem State.failWith_fail (s : State) (e : ErrInfo) : (s.failWith e).fail = true := rfl
@[simp] theorem State.failWith_busy (s : State) (e : ErrInfo) : (s.failWith e).busy = false := rfl
@[simp] theorem State.failWith_err (s : State) (e : ErrInfo) : (s.failWith e).err = e.word := rfl
@[simp] theorem State.failWith_spc (s : State) (e : ErrInfo) : (s.failWith e).spc = .s0 := rfl
@[simp] theorem State.failWith_tpc (s : State) (e : ErrInfo) : (s.failWith e).tpc = .t0 := rfl
@[simp] theorem State.failWith_cyc (s : State) (e : ErrInfo) : (s.failWith e).cyc = s.cyc := rfl
@[simp] theorem State.failWith_cal (s : State) (e : ErrInfo) : (s.failWith e).cal = s.cal := rfl
@[simp] theorem State.failWith_rawT (s : State) (e : ErrInfo) : (s.failWith e).rawT = s.rawT := rfl
@[simp] theorem State.failWith_rawP (s : State) (e : ErrInfo) : (s.failWith e).rawP = s.rawP := rfl
@[simp] theorem State.failWith_tFine (s : State) (e : ErrInfo) : (s.failWith e).tFine = s.tFine := rfl
@[simp] theorem State.failWith_temp (s : State) (e : ErrInfo) : (s.failWith e).temp = s.temp := rfl
@[simp] theorem State.failWith_press (s : State) (e : ErrInfo) : (s.failWith e).press = s.press := rfl
@[simp] theorem State.failWith_rdT (s : State) (e : ErrInfo) : (s.failWith e).rdT = s.rdT := rfl
@[simp] theorem State.failWith_rdP (s : State) (e : ErrInfo) : (s.failWith e).rdP = s.rdP := rfl
@[simp] theorem State.failWith_accT (s : State) (e : ErrInfo) : (s.failWith e).accT = s.accT := rfl
@[simp] theorem State.failWith_accP (s : State) (e : ErrInfo) : (s.failWith e).accP = s.accP := rfl
@[simp] theorem State.failWith_calValid (s : State) (e : ErrInfo) : (s.failWith e).calValid = s.calValid := rfl
@[simp] theorem State.failWith_measOk (s : State) (e : ErrInfo) : (s.failWith e).measOk = s.measOk := rfl
@[simp] theorem State.failWith_rawTValid (s : State) (e : ErrInfo) : (s.failWith e).rawTValid = s.rawTValid := rfl
@[simp] theorem State.failWith_rawPValid (s : State) (e : ErrInfo) : (s.failWith e).rawPValid = s.rawPValid := rfl
@[simp] theorem State.failWith_tFineValid (s : State) (e : ErrInfo) : (s.failWith e).tFineValid = s.tFineValid := rfl
@[simp] theorem State.failWith_divg (s : State) (e : ErrInfo) : (s.failWith e).divg = s.divg := rfl
@[simp] theorem State.failWith_hist (s : State) (e : ErrInfo) : (s.failWith e).hist = s.hist := rfl
@[simp] theorem State.failWith_cfg (s : State) (e : ErrInfo) : (s.failWith e).cfg = s.cfg := rfl
@[simp] theorem State.failWith_answers (s : State) (e : ErrInfo) : (s.failWith e).answers = s.answers := rfl
@[simp] theorem State.failWith_busCount (s : State) (e : ErrInfo) : (s.failWith e).busCount = s.busCount := rfl
@[simp] theorem State.failWith_inputs (s : State) (e : ErrInfo) : (s.failWith e).inputs = s.inputs := rfl
@[simp] theorem State.failWith_hostLog (s : State) (e : ErrInfo) : (s.failWith e).hostLog = s.hostLog := rfl

/-! ### `State.refuse` -/

@[simp] theorem State.refuse_ctrl (s : State) (k : ErrKind) : (s.refuse k).ctrl = s.ctrl := rfl
@[simp] theorem State.refuse_status (s : State) (k : ErrKind) : (s.refuse k).status = s.status := rfl
@[simp] theorem State.refuse_data (s : State) (k : ErrKind) : (s.refuse k).data = s.data := rfl
@[simp] theorem State.refuse_bitrate (s : State) (k : ErrKind) : (s.refuse k).bitrate = s.bitrate := rfl
@[simp] theorem State.refuse_phase (s : State) (k : ErrKind) : (s.refuse k).phase = s.phase := rfl
@[simp] theorem State.refuse_dir (s : State) (k : ErrKind) : (s.refuse k).dir = s.dir := rfl
@[simp] theorem State.refuse_result (s : State) (k : ErrKind) : (s.refuse k).result = s.result := rfl
@[simp] theorem State.refuse_rxbuf (s : State) (k : ErrKind) : (s.refuse k).rxbuf = s.rxbuf := rfl
@[simp] theorem State.refuse_rxLen (s : State) (k : ErrKind) : (s.refuse k).rxLen = s.rxLen := rfl
@[simp] theorem State.refuse_idx (s : State) (k : ErrKind) : (s.refuse k).idx = s.idx := rfl
@[simp] theorem State.refuse_cmd (s : State) (k : ErrKind) : (s.refuse k).cmd = s.cmd := rfl
@[simp] theorem State.refuse_ok (s : State) (k : ErrKind) : (s.refuse k).ok = s.ok := rfl
@[simp] theorem State.refuse_fail (s : State) (k : ErrKind) : (s.refuse k).fail = true := rfl
@[simp] theorem State.refuse_busy (s : State) (k : ErrKind) : (s.refuse k).busy = false := rfl
@[simp] theorem State.refuse_err (s : State) (k : ErrKind) : (s.refuse k).err = (ErrInfo.refusal k).word := rfl
@[simp] theorem State.refuse_spc (s : State) (k : ErrKind) : (s.refuse k).spc = .s0 := rfl
@[simp] theorem State.refuse_tpc (s : State) (k : ErrKind) : (s.refuse k).tpc = .t0 := rfl
@[simp] theorem State.refuse_cyc (s : State) (k : ErrKind) : (s.refuse k).cyc = s.cyc := rfl
@[simp] theorem State.refuse_cal (s : State) (k : ErrKind) : (s.refuse k).cal = s.cal := rfl
@[simp] theorem State.refuse_rawT (s : State) (k : ErrKind) : (s.refuse k).rawT = s.rawT := rfl
@[simp] theorem State.refuse_rawP (s : State) (k : ErrKind) : (s.refuse k).rawP = s.rawP := rfl
@[simp] theorem State.refuse_tFine (s : State) (k : ErrKind) : (s.refuse k).tFine = s.tFine := rfl
@[simp] theorem State.refuse_temp (s : State) (k : ErrKind) : (s.refuse k).temp = s.temp := rfl
@[simp] theorem State.refuse_press (s : State) (k : ErrKind) : (s.refuse k).press = s.press := rfl
@[simp] theorem State.refuse_rdT (s : State) (k : ErrKind) : (s.refuse k).rdT = s.rdT := rfl
@[simp] theorem State.refuse_rdP (s : State) (k : ErrKind) : (s.refuse k).rdP = s.rdP := rfl
@[simp] theorem State.refuse_accT (s : State) (k : ErrKind) : (s.refuse k).accT = s.accT := rfl
@[simp] theorem State.refuse_accP (s : State) (k : ErrKind) : (s.refuse k).accP = s.accP := rfl
@[simp] theorem State.refuse_calValid (s : State) (k : ErrKind) : (s.refuse k).calValid = s.calValid := rfl
@[simp] theorem State.refuse_measOk (s : State) (k : ErrKind) : (s.refuse k).measOk = s.measOk := rfl
@[simp] theorem State.refuse_rawTValid (s : State) (k : ErrKind) : (s.refuse k).rawTValid = s.rawTValid := rfl
@[simp] theorem State.refuse_rawPValid (s : State) (k : ErrKind) : (s.refuse k).rawPValid = s.rawPValid := rfl
@[simp] theorem State.refuse_tFineValid (s : State) (k : ErrKind) : (s.refuse k).tFineValid = s.tFineValid := rfl
@[simp] theorem State.refuse_divg (s : State) (k : ErrKind) : (s.refuse k).divg = s.divg := rfl
@[simp] theorem State.refuse_hist (s : State) (k : ErrKind) : (s.refuse k).hist = s.hist := rfl
@[simp] theorem State.refuse_cfg (s : State) (k : ErrKind) : (s.refuse k).cfg = s.cfg := rfl
@[simp] theorem State.refuse_answers (s : State) (k : ErrKind) : (s.refuse k).answers = s.answers := rfl
@[simp] theorem State.refuse_busCount (s : State) (k : ErrKind) : (s.refuse k).busCount = s.busCount := rfl
@[simp] theorem State.refuse_inputs (s : State) (k : ErrKind) : (s.refuse k).inputs = s.inputs := rfl
@[simp] theorem State.refuse_hostLog (s : State) (k : ErrKind) : (s.refuse k).hostLog = s.hostLog := rfl

/-! ### `State.trigger` -/

@[simp] theorem State.trigger_ctrl (s : State) (c : Byte) : (s.trigger c).ctrl = c := rfl
@[simp] theorem State.trigger_status (s : State) (c : Byte) : (s.trigger c).status = withCode .noInfo s.status := rfl
@[simp] theorem State.trigger_data (s : State) (c : Byte) : (s.trigger c).data = s.data := rfl
@[simp] theorem State.trigger_bitrate (s : State) (c : Byte) : (s.trigger c).bitrate = s.bitrate := rfl
@[simp] theorem State.trigger_phase (s : State) (c : Byte) : (s.trigger c).phase = s.phase := rfl
@[simp] theorem State.trigger_dir (s : State) (c : Byte) : (s.trigger c).dir = s.dir := rfl
@[simp] theorem State.trigger_result (s : State) (c : Byte) : (s.trigger c).result = s.result := rfl
@[simp] theorem State.trigger_rxbuf (s : State) (c : Byte) : (s.trigger c).rxbuf = s.rxbuf := rfl
@[simp] theorem State.trigger_rxLen (s : State) (c : Byte) : (s.trigger c).rxLen = s.rxLen := rfl
@[simp] theorem State.trigger_idx (s : State) (c : Byte) : (s.trigger c).idx = s.idx := rfl
@[simp] theorem State.trigger_cmd (s : State) (c : Byte) : (s.trigger c).cmd = s.cmd := rfl
@[simp] theorem State.trigger_ok (s : State) (c : Byte) : (s.trigger c).ok = s.ok := rfl
@[simp] theorem State.trigger_fail (s : State) (c : Byte) : (s.trigger c).fail = s.fail := rfl
@[simp] theorem State.trigger_busy (s : State) (c : Byte) : (s.trigger c).busy = s.busy := rfl
@[simp] theorem State.trigger_err (s : State) (c : Byte) : (s.trigger c).err = s.err := rfl
@[simp] theorem State.trigger_spc (s : State) (c : Byte) : (s.trigger c).spc = s.spc := rfl
@[simp] theorem State.trigger_tpc (s : State) (c : Byte) : (s.trigger c).tpc = s.tpc := rfl
@[simp] theorem State.trigger_cyc (s : State) (c : Byte) : (s.trigger c).cyc = s.cyc := rfl
@[simp] theorem State.trigger_cal (s : State) (c : Byte) : (s.trigger c).cal = s.cal := rfl
@[simp] theorem State.trigger_rawT (s : State) (c : Byte) : (s.trigger c).rawT = s.rawT := rfl
@[simp] theorem State.trigger_rawP (s : State) (c : Byte) : (s.trigger c).rawP = s.rawP := rfl
@[simp] theorem State.trigger_tFine (s : State) (c : Byte) : (s.trigger c).tFine = s.tFine := rfl
@[simp] theorem State.trigger_temp (s : State) (c : Byte) : (s.trigger c).temp = s.temp := rfl
@[simp] theorem State.trigger_press (s : State) (c : Byte) : (s.trigger c).press = s.press := rfl
@[simp] theorem State.trigger_rdT (s : State) (c : Byte) : (s.trigger c).rdT = s.rdT := rfl
@[simp] theorem State.trigger_rdP (s : State) (c : Byte) : (s.trigger c).rdP = s.rdP := rfl
@[simp] theorem State.trigger_accT (s : State) (c : Byte) : (s.trigger c).accT = s.accT := rfl
@[simp] theorem State.trigger_accP (s : State) (c : Byte) : (s.trigger c).accP = s.accP := rfl
@[simp] theorem State.trigger_calValid (s : State) (c : Byte) : (s.trigger c).calValid = s.calValid := rfl
@[simp] theorem State.trigger_measOk (s : State) (c : Byte) : (s.trigger c).measOk = s.measOk := rfl
@[simp] theorem State.trigger_rawTValid (s : State) (c : Byte) : (s.trigger c).rawTValid = s.rawTValid := rfl
@[simp] theorem State.trigger_rawPValid (s : State) (c : Byte) : (s.trigger c).rawPValid = s.rawPValid := rfl
@[simp] theorem State.trigger_tFineValid (s : State) (c : Byte) : (s.trigger c).tFineValid = s.tFineValid := rfl
@[simp] theorem State.trigger_divg (s : State) (c : Byte) : (s.trigger c).divg = s.divg := rfl
@[simp] theorem State.trigger_hist (s : State) (c : Byte) : (s.trigger c).hist = s.hist := rfl
@[simp] theorem State.trigger_cfg (s : State) (c : Byte) : (s.trigger c).cfg = s.cfg := rfl
@[simp] theorem State.trigger_answers (s : State) (c : Byte) : (s.trigger c).answers = s.answers := rfl
@[simp] theorem State.trigger_busCount (s : State) (c : Byte) : (s.trigger c).busCount = s.busCount := rfl
@[simp] theorem State.trigger_inputs (s : State) (c : Byte) : (s.trigger c).inputs = s.inputs := rfl
@[simp] theorem State.trigger_hostLog (s : State) (c : Byte) : (s.trigger c).hostLog = s.hostLog := rfl

/-! ### `State.asked` -/

@[simp] theorem State.asked_ctrl (s : State) : s.asked.ctrl = s.ctrl := rfl
@[simp] theorem State.asked_status (s : State) : s.asked.status = s.status := rfl
@[simp] theorem State.asked_data (s : State) : s.asked.data = s.data := rfl
@[simp] theorem State.asked_bitrate (s : State) : s.asked.bitrate = s.bitrate := rfl
@[simp] theorem State.asked_phase (s : State) : s.asked.phase = s.phase := rfl
@[simp] theorem State.asked_dir (s : State) : s.asked.dir = s.dir := rfl
@[simp] theorem State.asked_result (s : State) : s.asked.result = s.result := rfl
@[simp] theorem State.asked_rxbuf (s : State) : s.asked.rxbuf = s.rxbuf := rfl
@[simp] theorem State.asked_rxLen (s : State) : s.asked.rxLen = s.rxLen := rfl
@[simp] theorem State.asked_idx (s : State) : s.asked.idx = s.idx := rfl
@[simp] theorem State.asked_cmd (s : State) : s.asked.cmd = s.cmd := rfl
@[simp] theorem State.asked_ok (s : State) : s.asked.ok = s.ok := rfl
@[simp] theorem State.asked_fail (s : State) : s.asked.fail = s.fail := rfl
@[simp] theorem State.asked_busy (s : State) : s.asked.busy = s.busy := rfl
@[simp] theorem State.asked_err (s : State) : s.asked.err = s.err := rfl
@[simp] theorem State.asked_spc (s : State) : s.asked.spc = s.spc := rfl
@[simp] theorem State.asked_tpc (s : State) : s.asked.tpc = s.tpc := rfl
@[simp] theorem State.asked_cyc (s : State) : s.asked.cyc = s.cyc := rfl
@[simp] theorem State.asked_cal (s : State) : s.asked.cal = s.cal := rfl
@[simp] theorem State.asked_rawT (s : State) : s.asked.rawT = s.rawT := rfl
@[simp] theorem State.asked_rawP (s : State) : s.asked.rawP = s.rawP := rfl
@[simp] theorem State.asked_tFine (s : State) : s.asked.tFine = s.tFine := rfl
@[simp] theorem State.asked_temp (s : State) : s.asked.temp = s.temp := rfl
@[simp] theorem State.asked_press (s : State) : s.asked.press = s.press := rfl
@[simp] theorem State.asked_rdT (s : State) : s.asked.rdT = s.rdT := rfl
@[simp] theorem State.asked_rdP (s : State) : s.asked.rdP = s.rdP := rfl
@[simp] theorem State.asked_accT (s : State) : s.asked.accT = s.accT := rfl
@[simp] theorem State.asked_accP (s : State) : s.asked.accP = s.accP := rfl
@[simp] theorem State.asked_calValid (s : State) : s.asked.calValid = s.calValid := rfl
@[simp] theorem State.asked_measOk (s : State) : s.asked.measOk = s.measOk := rfl
@[simp] theorem State.asked_rawTValid (s : State) : s.asked.rawTValid = s.rawTValid := rfl
@[simp] theorem State.asked_rawPValid (s : State) : s.asked.rawPValid = s.rawPValid := rfl
@[simp] theorem State.asked_tFineValid (s : State) : s.asked.tFineValid = s.tFineValid := rfl
@[simp] theorem State.asked_divg (s : State) : s.asked.divg = s.divg := rfl
@[simp] theorem State.asked_hist (s : State) : s.asked.hist = s.hist := rfl
@[simp] theorem State.asked_cfg (s : State) : s.asked.cfg = s.cfg := rfl
@[simp] theorem State.asked_answers (s : State) : s.asked.answers = s.answers.tail := rfl
@[simp] theorem State.asked_busCount (s : State) : s.asked.busCount = s.busCount + 1 := rfl
@[simp] theorem State.asked_inputs (s : State) : s.asked.inputs = s.inputs := rfl
@[simp] theorem State.asked_hostLog (s : State) : s.asked.hostLog = s.hostLog := rfl

/-! ### `State.complete` -/

@[simp] theorem State.complete_ctrl (s : State) (c : StatusCode) (p : Phase) (d : Dir) (e : BusEvent) : (s.complete c p d e).ctrl = s.ctrl ||| 0x80#8 := rfl
@[simp] theorem State.complete_status (s : State) (c : StatusCode) (p : Phase) (d : Dir) (e : BusEvent) : (s.complete c p d e).status = withCode c s.status := rfl
@[simp] theorem State.complete_data (s : State) (c : StatusCode) (p : Phase) (d : Dir) (e : BusEvent) : (s.complete c p d e).data = s.data := rfl
@[simp] theorem State.complete_bitrate (s : State) (c : StatusCode) (p : Phase) (d : Dir) (e : BusEvent) : (s.complete c p d e).bitrate = s.bitrate := rfl
@[simp] theorem State.complete_phase (s : State) (c : StatusCode) (p : Phase) (d : Dir) (e : BusEvent) : (s.complete c p d e).phase = p := rfl
@[simp] theorem State.complete_dir (s : State) (c : StatusCode) (p : Phase) (d : Dir) (e : BusEvent) : (s.complete c p d e).dir = d := rfl
@[simp] theorem State.complete_result (s : State) (c : StatusCode) (p : Phase) (d : Dir) (e : BusEvent) : (s.complete c p d e).result = s.result := rfl
@[simp] theorem State.complete_rxbuf (s : State) (c : StatusCode) (p : Phase) (d : Dir) (e : BusEvent) : (s.complete c p d e).rxbuf = s.rxbuf := rfl
@[simp] theorem State.complete_rxLen (s : State) (c : StatusCode) (p : Phase) (d : Dir) (e : BusEvent) : (s.complete c p d e).rxLen = s.rxLen := rfl
@[simp] theorem State.complete_idx (s : State) (c : StatusCode) (p : Phase) (d : Dir) (e : BusEvent) : (s.complete c p d e).idx = s.idx := rfl
@[simp] theorem State.complete_cmd (s : State) (c : StatusCode) (p : Phase) (d : Dir) (e : BusEvent) : (s.complete c p d e).cmd = s.cmd := rfl
@[simp] theorem State.complete_ok (s : State) (c : StatusCode) (p : Phase) (d : Dir) (e : BusEvent) : (s.complete c p d e).ok = s.ok := rfl
@[simp] theorem State.complete_fail (s : State) (c : StatusCode) (p : Phase) (d : Dir) (e : BusEvent) : (s.complete c p d e).fail = s.fail := rfl
@[simp] theorem State.complete_busy (s : State) (c : StatusCode) (p : Phase) (d : Dir) (e : BusEvent) : (s.complete c p d e).busy = s.busy := rfl
@[simp] theorem State.complete_err (s : State) (c : StatusCode) (p : Phase) (d : Dir) (e : BusEvent) : (s.complete c p d e).err = s.err := rfl
@[simp] theorem State.complete_spc (s : State) (c : StatusCode) (p : Phase) (d : Dir) (e : BusEvent) : (s.complete c p d e).spc = s.spc := rfl
@[simp] theorem State.complete_tpc (s : State) (c : StatusCode) (p : Phase) (d : Dir) (e : BusEvent) : (s.complete c p d e).tpc = s.tpc := rfl
@[simp] theorem State.complete_cyc (s : State) (c : StatusCode) (p : Phase) (d : Dir) (e : BusEvent) : (s.complete c p d e).cyc = s.cyc := rfl
@[simp] theorem State.complete_cal (s : State) (c : StatusCode) (p : Phase) (d : Dir) (e : BusEvent) : (s.complete c p d e).cal = s.cal := rfl
@[simp] theorem State.complete_rawT (s : State) (c : StatusCode) (p : Phase) (d : Dir) (e : BusEvent) : (s.complete c p d e).rawT = s.rawT := rfl
@[simp] theorem State.complete_rawP (s : State) (c : StatusCode) (p : Phase) (d : Dir) (e : BusEvent) : (s.complete c p d e).rawP = s.rawP := rfl
@[simp] theorem State.complete_tFine (s : State) (c : StatusCode) (p : Phase) (d : Dir) (e : BusEvent) : (s.complete c p d e).tFine = s.tFine := rfl
@[simp] theorem State.complete_temp (s : State) (c : StatusCode) (p : Phase) (d : Dir) (e : BusEvent) : (s.complete c p d e).temp = s.temp := rfl
@[simp] theorem State.complete_press (s : State) (c : StatusCode) (p : Phase) (d : Dir) (e : BusEvent) : (s.complete c p d e).press = s.press := rfl
@[simp] theorem State.complete_rdT (s : State) (c : StatusCode) (p : Phase) (d : Dir) (e : BusEvent) : (s.complete c p d e).rdT = s.rdT := rfl
@[simp] theorem State.complete_rdP (s : State) (c : StatusCode) (p : Phase) (d : Dir) (e : BusEvent) : (s.complete c p d e).rdP = s.rdP := rfl
@[simp] theorem State.complete_accT (s : State) (c : StatusCode) (p : Phase) (d : Dir) (e : BusEvent) : (s.complete c p d e).accT = s.accT := rfl
@[simp] theorem State.complete_accP (s : State) (c : StatusCode) (p : Phase) (d : Dir) (e : BusEvent) : (s.complete c p d e).accP = s.accP := rfl
@[simp] theorem State.complete_calValid (s : State) (c : StatusCode) (p : Phase) (d : Dir) (e : BusEvent) : (s.complete c p d e).calValid = s.calValid := rfl
@[simp] theorem State.complete_measOk (s : State) (c : StatusCode) (p : Phase) (d : Dir) (e : BusEvent) : (s.complete c p d e).measOk = s.measOk := rfl
@[simp] theorem State.complete_rawTValid (s : State) (c : StatusCode) (p : Phase) (d : Dir) (e : BusEvent) : (s.complete c p d e).rawTValid = s.rawTValid := rfl
@[simp] theorem State.complete_rawPValid (s : State) (c : StatusCode) (p : Phase) (d : Dir) (e : BusEvent) : (s.complete c p d e).rawPValid = s.rawPValid := rfl
@[simp] theorem State.complete_tFineValid (s : State) (c : StatusCode) (p : Phase) (d : Dir) (e : BusEvent) : (s.complete c p d e).tFineValid = s.tFineValid := rfl
@[simp] theorem State.complete_divg (s : State) (c : StatusCode) (p : Phase) (d : Dir) (e : BusEvent) : (s.complete c p d e).divg = s.divg := rfl
@[simp] theorem State.complete_hist (s : State) (c : StatusCode) (p : Phase) (d : Dir) (e : BusEvent) : (s.complete c p d e).hist = s.hist ++ [e] := rfl
@[simp] theorem State.complete_cfg (s : State) (c : StatusCode) (p : Phase) (d : Dir) (e : BusEvent) : (s.complete c p d e).cfg = s.cfg := rfl
@[simp] theorem State.complete_answers (s : State) (c : StatusCode) (p : Phase) (d : Dir) (e : BusEvent) : (s.complete c p d e).answers = s.answers := rfl
@[simp] theorem State.complete_busCount (s : State) (c : StatusCode) (p : Phase) (d : Dir) (e : BusEvent) : (s.complete c p d e).busCount = s.busCount := rfl
@[simp] theorem State.complete_inputs (s : State) (c : StatusCode) (p : Phase) (d : Dir) (e : BusEvent) : (s.complete c p d e).inputs = s.inputs := rfl
@[simp] theorem State.complete_hostLog (s : State) (c : StatusCode) (p : Phase) (d : Dir) (e : BusEvent) : (s.complete c p d e).hostLog = s.hostLog := rfl

/-! ### `State.released` -/

@[simp] theorem State.released_ctrl (s : State) : s.released.ctrl = s.ctrl &&& 0xEF#8 := rfl
@[simp] theorem State.released_status (s : State) : s.released.status = s.status := rfl
@[simp] theorem State.released_data (s : State) : s.released.data = s.data := rfl
@[simp] theorem State.released_bitrate (s : State) : s.released.bitrate = s.bitrate := rfl
@[simp] theorem State.released_phase (s : State) : s.released.phase = .stopped := rfl
@[simp] theorem State.released_dir (s : State) : s.released.dir = .w := rfl
@[simp] theorem State.released_result (s : State) : s.released.result = s.result := rfl
@[simp] theorem State.released_rxbuf (s : State) : s.released.rxbuf = s.rxbuf := rfl
@[simp] theorem State.released_rxLen (s : State) : s.released.rxLen = s.rxLen := rfl
@[simp] theorem State.released_idx (s : State) : s.released.idx = s.idx := rfl
@[simp] theorem State.released_cmd (s : State) : s.released.cmd = s.cmd := rfl
@[simp] theorem State.released_ok (s : State) : s.released.ok = s.ok := rfl
@[simp] theorem State.released_fail (s : State) : s.released.fail = s.fail := rfl
@[simp] theorem State.released_busy (s : State) : s.released.busy = s.busy := rfl
@[simp] theorem State.released_err (s : State) : s.released.err = s.err := rfl
@[simp] theorem State.released_spc (s : State) : s.released.spc = s.spc := rfl
@[simp] theorem State.released_tpc (s : State) : s.released.tpc = s.tpc := rfl
@[simp] theorem State.released_cyc (s : State) : s.released.cyc = s.cyc := rfl
@[simp] theorem State.released_cal (s : State) : s.released.cal = s.cal := rfl
@[simp] theorem State.released_rawT (s : State) : s.released.rawT = s.rawT := rfl
@[simp] theorem State.released_rawP (s : State) : s.released.rawP = s.rawP := rfl
@[simp] theorem State.released_tFine (s : State) : s.released.tFine = s.tFine := rfl
@[simp] theorem State.released_temp (s : State) : s.released.temp = s.temp := rfl
@[simp] theorem State.released_press (s : State) : s.released.press = s.press := rfl
@[simp] theorem State.released_rdT (s : State) : s.released.rdT = s.rdT := rfl
@[simp] theorem State.released_rdP (s : State) : s.released.rdP = s.rdP := rfl
@[simp] theorem State.released_accT (s : State) : s.released.accT = s.accT := rfl
@[simp] theorem State.released_accP (s : State) : s.released.accP = s.accP := rfl
@[simp] theorem State.released_calValid (s : State) : s.released.calValid = s.calValid := rfl
@[simp] theorem State.released_measOk (s : State) : s.released.measOk = s.measOk := rfl
@[simp] theorem State.released_rawTValid (s : State) : s.released.rawTValid = s.rawTValid := rfl
@[simp] theorem State.released_rawPValid (s : State) : s.released.rawPValid = s.rawPValid := rfl
@[simp] theorem State.released_tFineValid (s : State) : s.released.tFineValid = s.tFineValid := rfl
@[simp] theorem State.released_divg (s : State) : s.released.divg = s.divg := rfl
@[simp] theorem State.released_hist (s : State) : s.released.hist = s.hist := rfl
@[simp] theorem State.released_cfg (s : State) : s.released.cfg = s.cfg := rfl
@[simp] theorem State.released_answers (s : State) : s.released.answers = s.answers := rfl
@[simp] theorem State.released_busCount (s : State) : s.released.busCount = s.busCount := rfl
@[simp] theorem State.released_inputs (s : State) : s.released.inputs = s.inputs := rfl
@[simp] theorem State.released_hostLog (s : State) : s.released.hostLog = s.hostLog := rfl

/-! ### `State.sendTriggered` -/

@[simp] theorem State.sendTriggered_ctrl (s : State) (b : Byte) : (s.sendTriggered b).ctrl = 0x04#8 := rfl
@[simp] theorem State.sendTriggered_status (s : State) (b : Byte) : (s.sendTriggered b).status = withCode .noInfo s.status := rfl
@[simp] theorem State.sendTriggered_data (s : State) (b : Byte) : (s.sendTriggered b).data = b := rfl
@[simp] theorem State.sendTriggered_bitrate (s : State) (b : Byte) : (s.sendTriggered b).bitrate = s.bitrate := rfl
@[simp] theorem State.sendTriggered_phase (s : State) (b : Byte) : (s.sendTriggered b).phase = s.phase := rfl
@[simp] theorem State.sendTriggered_dir (s : State) (b : Byte) : (s.sendTriggered b).dir = s.dir := rfl
@[simp] theorem State.sendTriggered_result (s : State) (b : Byte) : (s.sendTriggered b).result = s.result := rfl
@[simp] theorem State.sendTriggered_rxbuf (s : State) (b : Byte) : (s.sendTriggered b).rxbuf = s.rxbuf := rfl
@[simp] theorem State.sendTriggered_rxLen (s : State) (b : Byte) : (s.sendTriggered b).rxLen = s.rxLen := rfl
@[simp] theorem State.sendTriggered_idx (s : State) (b : Byte) : (s.sendTriggered b).idx = s.idx := rfl
@[simp] theorem State.sendTriggered_cmd (s : State) (b : Byte) : (s.sendTriggered b).cmd = s.cmd := rfl
@[simp] theorem State.sendTriggered_ok (s : State) (b : Byte) : (s.sendTriggered b).ok = s.ok := rfl
@[simp] theorem State.sendTriggered_fail (s : State) (b : Byte) : (s.sendTriggered b).fail = s.fail := rfl
@[simp] theorem State.sendTriggered_busy (s : State) (b : Byte) : (s.sendTriggered b).busy = s.busy := rfl
@[simp] theorem State.sendTriggered_err (s : State) (b : Byte) : (s.sendTriggered b).err = s.err := rfl
@[simp] theorem State.sendTriggered_spc (s : State) (b : Byte) : (s.sendTriggered b).spc = s.spc := rfl
@[simp] theorem State.sendTriggered_tpc (s : State) (b : Byte) : (s.sendTriggered b).tpc = s.tpc := rfl
@[simp] theorem State.sendTriggered_cyc (s : State) (b : Byte) : (s.sendTriggered b).cyc = s.cyc := rfl
@[simp] theorem State.sendTriggered_cal (s : State) (b : Byte) : (s.sendTriggered b).cal = s.cal := rfl
@[simp] theorem State.sendTriggered_rawT (s : State) (b : Byte) : (s.sendTriggered b).rawT = s.rawT := rfl
@[simp] theorem State.sendTriggered_rawP (s : State) (b : Byte) : (s.sendTriggered b).rawP = s.rawP := rfl
@[simp] theorem State.sendTriggered_tFine (s : State) (b : Byte) : (s.sendTriggered b).tFine = s.tFine := rfl
@[simp] theorem State.sendTriggered_temp (s : State) (b : Byte) : (s.sendTriggered b).temp = s.temp := rfl
@[simp] theorem State.sendTriggered_press (s : State) (b : Byte) : (s.sendTriggered b).press = s.press := rfl
@[simp] theorem State.sendTriggered_rdT (s : State) (b : Byte) : (s.sendTriggered b).rdT = s.rdT := rfl
@[simp] theorem State.sendTriggered_rdP (s : State) (b : Byte) : (s.sendTriggered b).rdP = s.rdP := rfl
@[simp] theorem State.sendTriggered_accT (s : State) (b : Byte) : (s.sendTriggered b).accT = s.accT := rfl
@[simp] theorem State.sendTriggered_accP (s : State) (b : Byte) : (s.sendTriggered b).accP = s.accP := rfl
@[simp] theorem State.sendTriggered_calValid (s : State) (b : Byte) : (s.sendTriggered b).calValid = s.calValid := rfl
@[simp] theorem State.sendTriggered_measOk (s : State) (b : Byte) : (s.sendTriggered b).measOk = s.measOk := rfl
@[simp] theorem State.sendTriggered_rawTValid (s : State) (b : Byte) : (s.sendTriggered b).rawTValid = s.rawTValid := rfl
@[simp] theorem State.sendTriggered_rawPValid (s : State) (b : Byte) : (s.sendTriggered b).rawPValid = s.rawPValid := rfl
@[simp] theorem State.sendTriggered_tFineValid (s : State) (b : Byte) : (s.sendTriggered b).tFineValid = s.tFineValid := rfl
@[simp] theorem State.sendTriggered_divg (s : State) (b : Byte) : (s.sendTriggered b).divg = s.divg := rfl
@[simp] theorem State.sendTriggered_hist (s : State) (b : Byte) : (s.sendTriggered b).hist = s.hist := rfl
@[simp] theorem State.sendTriggered_cfg (s : State) (b : Byte) : (s.sendTriggered b).cfg = s.cfg := rfl
@[simp] theorem State.sendTriggered_answers (s : State) (b : Byte) : (s.sendTriggered b).answers = s.answers.tail := rfl
@[simp] theorem State.sendTriggered_busCount (s : State) (b : Byte) : (s.sendTriggered b).busCount = s.busCount + 1 := rfl
@[simp] theorem State.sendTriggered_inputs (s : State) (b : Byte) : (s.sendTriggered b).inputs = s.inputs := rfl
@[simp] theorem State.sendTriggered_hostLog (s : State) (b : Byte) : (s.sendTriggered b).hostLog = s.hostLog := rfl

/-! ### `State.storeByte` -/

@[simp] theorem State.storeByte_ctrl (s : State) : s.storeByte.ctrl = s.ctrl := rfl
@[simp] theorem State.storeByte_status (s : State) : s.storeByte.status = s.status := rfl
@[simp] theorem State.storeByte_data (s : State) : s.storeByte.data = s.data := rfl
@[simp] theorem State.storeByte_bitrate (s : State) : s.storeByte.bitrate = s.bitrate := rfl
@[simp] theorem State.storeByte_phase (s : State) : s.storeByte.phase = s.phase := rfl
@[simp] theorem State.storeByte_dir (s : State) : s.storeByte.dir = s.dir := rfl
@[simp] theorem State.storeByte_result (s : State) : s.storeByte.result = s.result := rfl
@[simp] theorem State.storeByte_rxbuf (s : State) : s.storeByte.rxbuf = s.rxbuf.write s.idx.toNat s.data := rfl
@[simp] theorem State.storeByte_rxLen (s : State) : s.storeByte.rxLen = s.rxLen := rfl
@[simp] theorem State.storeByte_idx (s : State) : s.storeByte.idx = s.idx + 1#8 := rfl
@[simp] theorem State.storeByte_cmd (s : State) : s.storeByte.cmd = s.cmd := rfl
@[simp] theorem State.storeByte_ok (s : State) : s.storeByte.ok = s.ok := rfl
@[simp] theorem State.storeByte_fail (s : State) : s.storeByte.fail = s.fail := rfl
@[simp] theorem State.storeByte_busy (s : State) : s.storeByte.busy = s.busy := rfl
@[simp] theorem State.storeByte_err (s : State) : s.storeByte.err = s.err := rfl
@[simp] theorem State.storeByte_spc (s : State) : s.storeByte.spc = s.spc := rfl
@[simp] theorem State.storeByte_tpc (s : State) : s.storeByte.tpc = s.tpc := rfl
@[simp] theorem State.storeByte_cyc (s : State) : s.storeByte.cyc = s.cyc := rfl
@[simp] theorem State.storeByte_cal (s : State) : s.storeByte.cal = s.cal := rfl
@[simp] theorem State.storeByte_rawT (s : State) : s.storeByte.rawT = s.rawT := rfl
@[simp] theorem State.storeByte_rawP (s : State) : s.storeByte.rawP = s.rawP := rfl
@[simp] theorem State.storeByte_tFine (s : State) : s.storeByte.tFine = s.tFine := rfl
@[simp] theorem State.storeByte_temp (s : State) : s.storeByte.temp = s.temp := rfl
@[simp] theorem State.storeByte_press (s : State) : s.storeByte.press = s.press := rfl
@[simp] theorem State.storeByte_rdT (s : State) : s.storeByte.rdT = s.rdT := rfl
@[simp] theorem State.storeByte_rdP (s : State) : s.storeByte.rdP = s.rdP := rfl
@[simp] theorem State.storeByte_accT (s : State) : s.storeByte.accT = s.accT := rfl
@[simp] theorem State.storeByte_accP (s : State) : s.storeByte.accP = s.accP := rfl
@[simp] theorem State.storeByte_calValid (s : State) : s.storeByte.calValid = s.calValid := rfl
@[simp] theorem State.storeByte_measOk (s : State) : s.storeByte.measOk = s.measOk := rfl
@[simp] theorem State.storeByte_rawTValid (s : State) : s.storeByte.rawTValid = s.rawTValid := rfl
@[simp] theorem State.storeByte_rawPValid (s : State) : s.storeByte.rawPValid = s.rawPValid := rfl
@[simp] theorem State.storeByte_tFineValid (s : State) : s.storeByte.tFineValid = s.tFineValid := rfl
@[simp] theorem State.storeByte_divg (s : State) : s.storeByte.divg = s.divg := rfl
@[simp] theorem State.storeByte_hist (s : State) : s.storeByte.hist = s.hist := rfl
@[simp] theorem State.storeByte_cfg (s : State) : s.storeByte.cfg = s.cfg := rfl
@[simp] theorem State.storeByte_answers (s : State) : s.storeByte.answers = s.answers := rfl
@[simp] theorem State.storeByte_busCount (s : State) : s.storeByte.busCount = s.busCount := rfl
@[simp] theorem State.storeByte_inputs (s : State) : s.storeByte.inputs = s.inputs := rfl
@[simp] theorem State.storeByte_hostLog (s : State) : s.storeByte.hostLog = s.hostLog := rfl

/-! ### `State.accept` -/

@[simp] theorem State.accept_ctrl (s : State) (w : Word) (rest : List Input) : (s.accept w rest).ctrl = s.ctrl := rfl
@[simp] theorem State.accept_status (s : State) (w : Word) (rest : List Input) : (s.accept w rest).status = s.status := rfl
@[simp] theorem State.accept_data (s : State) (w : Word) (rest : List Input) : (s.accept w rest).data = s.data := rfl
@[simp] theorem State.accept_bitrate (s : State) (w : Word) (rest : List Input) : (s.accept w rest).bitrate = s.bitrate := rfl
@[simp] theorem State.accept_phase (s : State) (w : Word) (rest : List Input) : (s.accept w rest).phase = s.phase := rfl
@[simp] theorem State.accept_dir (s : State) (w : Word) (rest : List Input) : (s.accept w rest).dir = s.dir := rfl
@[simp] theorem State.accept_result (s : State) (w : Word) (rest : List Input) : (s.accept w rest).result = s.result := rfl
@[simp] theorem State.accept_rxbuf (s : State) (w : Word) (rest : List Input) : (s.accept w rest).rxbuf = s.rxbuf := rfl
@[simp] theorem State.accept_rxLen (s : State) (w : Word) (rest : List Input) : (s.accept w rest).rxLen = s.rxLen := rfl
@[simp] theorem State.accept_idx (s : State) (w : Word) (rest : List Input) : (s.accept w rest).idx = s.idx := rfl
@[simp] theorem State.accept_cmd (s : State) (w : Word) (rest : List Input) : (s.accept w rest).cmd = w := rfl
@[simp] theorem State.accept_ok (s : State) (w : Word) (rest : List Input) : (s.accept w rest).ok = s.ok := rfl
@[simp] theorem State.accept_fail (s : State) (w : Word) (rest : List Input) : (s.accept w rest).fail = s.fail := rfl
@[simp] theorem State.accept_busy (s : State) (w : Word) (rest : List Input) : (s.accept w rest).busy = s.busy := rfl
@[simp] theorem State.accept_err (s : State) (w : Word) (rest : List Input) : (s.accept w rest).err = s.err := rfl
@[simp] theorem State.accept_spc (s : State) (w : Word) (rest : List Input) : (s.accept w rest).spc = s.spc := rfl
@[simp] theorem State.accept_tpc (s : State) (w : Word) (rest : List Input) : (s.accept w rest).tpc = s.tpc := rfl
@[simp] theorem State.accept_cyc (s : State) (w : Word) (rest : List Input) : (s.accept w rest).cyc = s.cyc := rfl
@[simp] theorem State.accept_cal (s : State) (w : Word) (rest : List Input) : (s.accept w rest).cal = s.cal := rfl
@[simp] theorem State.accept_rawT (s : State) (w : Word) (rest : List Input) : (s.accept w rest).rawT = s.rawT := rfl
@[simp] theorem State.accept_rawP (s : State) (w : Word) (rest : List Input) : (s.accept w rest).rawP = s.rawP := rfl
@[simp] theorem State.accept_tFine (s : State) (w : Word) (rest : List Input) : (s.accept w rest).tFine = s.tFine := rfl
@[simp] theorem State.accept_temp (s : State) (w : Word) (rest : List Input) : (s.accept w rest).temp = s.temp := rfl
@[simp] theorem State.accept_press (s : State) (w : Word) (rest : List Input) : (s.accept w rest).press = s.press := rfl
@[simp] theorem State.accept_rdT (s : State) (w : Word) (rest : List Input) : (s.accept w rest).rdT = s.rdT := rfl
@[simp] theorem State.accept_rdP (s : State) (w : Word) (rest : List Input) : (s.accept w rest).rdP = s.rdP := rfl
@[simp] theorem State.accept_accT (s : State) (w : Word) (rest : List Input) : (s.accept w rest).accT = s.accT := rfl
@[simp] theorem State.accept_accP (s : State) (w : Word) (rest : List Input) : (s.accept w rest).accP = s.accP := rfl
@[simp] theorem State.accept_calValid (s : State) (w : Word) (rest : List Input) : (s.accept w rest).calValid = s.calValid := rfl
@[simp] theorem State.accept_measOk (s : State) (w : Word) (rest : List Input) : (s.accept w rest).measOk = s.measOk := rfl
@[simp] theorem State.accept_rawTValid (s : State) (w : Word) (rest : List Input) : (s.accept w rest).rawTValid = s.rawTValid := rfl
@[simp] theorem State.accept_rawPValid (s : State) (w : Word) (rest : List Input) : (s.accept w rest).rawPValid = s.rawPValid := rfl
@[simp] theorem State.accept_tFineValid (s : State) (w : Word) (rest : List Input) : (s.accept w rest).tFineValid = s.tFineValid := rfl
@[simp] theorem State.accept_divg (s : State) (w : Word) (rest : List Input) : (s.accept w rest).divg = s.divg := rfl
@[simp] theorem State.accept_hist (s : State) (w : Word) (rest : List Input) : (s.accept w rest).hist = s.hist := rfl
@[simp] theorem State.accept_cfg (s : State) (w : Word) (rest : List Input) : (s.accept w rest).cfg = s.cfg := rfl
@[simp] theorem State.accept_answers (s : State) (w : Word) (rest : List Input) : (s.accept w rest).answers = s.answers := rfl
@[simp] theorem State.accept_busCount (s : State) (w : Word) (rest : List Input) : (s.accept w rest).busCount = s.busCount := rfl
@[simp] theorem State.accept_inputs (s : State) (w : Word) (rest : List Input) : (s.accept w rest).inputs = rest := rfl
@[simp] theorem State.accept_hostLog (s : State) (w : Word) (rest : List Input) : (s.accept w rest).hostLog = s.hostLog := rfl

/-! ### `State.sent` -/

@[simp] theorem State.sent_ctrl (s : State) (b : Byte) (a : Bool) : (s.sent b a).ctrl = s.ctrl ||| 0x80#8 := by
  unfold State.sent; split <;> rfl
@[simp] theorem State.sent_data (s : State) (b : Byte) (a : Bool) : (s.sent b a).data = s.data := by
  unfold State.sent; split <;> rfl
@[simp] theorem State.sent_bitrate (s : State) (b : Byte) (a : Bool) : (s.sent b a).bitrate = s.bitrate := by
  unfold State.sent; split <;> rfl
@[simp] theorem State.sent_result (s : State) (b : Byte) (a : Bool) : (s.sent b a).result = s.result := by
  unfold State.sent; split <;> rfl
@[simp] theorem State.sent_rxbuf (s : State) (b : Byte) (a : Bool) : (s.sent b a).rxbuf = s.rxbuf := by
  unfold State.sent; split <;> rfl
@[simp] theorem State.sent_rxLen (s : State) (b : Byte) (a : Bool) : (s.sent b a).rxLen = s.rxLen := by
  unfold State.sent; split <;> rfl
@[simp] theorem State.sent_idx (s : State) (b : Byte) (a : Bool) : (s.sent b a).idx = s.idx := by
  unfold State.sent; split <;> rfl
@[simp] theorem State.sent_cmd (s : State) (b : Byte) (a : Bool) : (s.sent b a).cmd = s.cmd := by
  unfold State.sent; split <;> rfl
@[simp] theorem State.sent_ok (s : State) (b : Byte) (a : Bool) : (s.sent b a).ok = s.ok := by
  unfold State.sent; split <;> rfl
@[simp] theorem State.sent_fail (s : State) (b : Byte) (a : Bool) : (s.sent b a).fail = s.fail := by
  unfold State.sent; split <;> rfl
@[simp] theorem State.sent_busy (s : State) (b : Byte) (a : Bool) : (s.sent b a).busy = s.busy := by
  unfold State.sent; split <;> rfl
@[simp] theorem State.sent_err (s : State) (b : Byte) (a : Bool) : (s.sent b a).err = s.err := by
  unfold State.sent; split <;> rfl
@[simp] theorem State.sent_spc (s : State) (b : Byte) (a : Bool) : (s.sent b a).spc = s.spc := by
  unfold State.sent; split <;> rfl
@[simp] theorem State.sent_tpc (s : State) (b : Byte) (a : Bool) : (s.sent b a).tpc = s.tpc := by
  unfold State.sent; split <;> rfl
@[simp] theorem State.sent_cyc (s : State) (b : Byte) (a : Bool) : (s.sent b a).cyc = s.cyc := by
  unfold State.sent; split <;> rfl
@[simp] theorem State.sent_cal (s : State) (b : Byte) (a : Bool) : (s.sent b a).cal = s.cal := by
  unfold State.sent; split <;> rfl
@[simp] theorem State.sent_rawT (s : State) (b : Byte) (a : Bool) : (s.sent b a).rawT = s.rawT := by
  unfold State.sent; split <;> rfl
@[simp] theorem State.sent_rawP (s : State) (b : Byte) (a : Bool) : (s.sent b a).rawP = s.rawP := by
  unfold State.sent; split <;> rfl
@[simp] theorem State.sent_tFine (s : State) (b : Byte) (a : Bool) : (s.sent b a).tFine = s.tFine := by
  unfold State.sent; split <;> rfl
@[simp] theorem State.sent_temp (s : State) (b : Byte) (a : Bool) : (s.sent b a).temp = s.temp := by
  unfold State.sent; split <;> rfl
@[simp] theorem State.sent_press (s : State) (b : Byte) (a : Bool) : (s.sent b a).press = s.press := by
  unfold State.sent; split <;> rfl
@[simp] theorem State.sent_rdT (s : State) (b : Byte) (a : Bool) : (s.sent b a).rdT = s.rdT := by
  unfold State.sent; split <;> rfl
@[simp] theorem State.sent_rdP (s : State) (b : Byte) (a : Bool) : (s.sent b a).rdP = s.rdP := by
  unfold State.sent; split <;> rfl
@[simp] theorem State.sent_accT (s : State) (b : Byte) (a : Bool) : (s.sent b a).accT = s.accT := by
  unfold State.sent; split <;> rfl
@[simp] theorem State.sent_accP (s : State) (b : Byte) (a : Bool) : (s.sent b a).accP = s.accP := by
  unfold State.sent; split <;> rfl
@[simp] theorem State.sent_calValid (s : State) (b : Byte) (a : Bool) : (s.sent b a).calValid = s.calValid := by
  unfold State.sent; split <;> rfl
@[simp] theorem State.sent_measOk (s : State) (b : Byte) (a : Bool) : (s.sent b a).measOk = s.measOk := by
  unfold State.sent; split <;> rfl
@[simp] theorem State.sent_rawTValid (s : State) (b : Byte) (a : Bool) : (s.sent b a).rawTValid = s.rawTValid := by
  unfold State.sent; split <;> rfl
@[simp] theorem State.sent_rawPValid (s : State) (b : Byte) (a : Bool) : (s.sent b a).rawPValid = s.rawPValid := by
  unfold State.sent; split <;> rfl
@[simp] theorem State.sent_tFineValid (s : State) (b : Byte) (a : Bool) : (s.sent b a).tFineValid = s.tFineValid := by
  unfold State.sent; split <;> rfl
@[simp] theorem State.sent_divg (s : State) (b : Byte) (a : Bool) : (s.sent b a).divg = s.divg := by
  unfold State.sent; split <;> rfl
@[simp] theorem State.sent_hist (s : State) (b : Byte) (a : Bool) : (s.sent b a).hist = s.hist ++ [.tx b a] := by
  unfold State.sent; split <;> rfl
@[simp] theorem State.sent_cfg (s : State) (b : Byte) (a : Bool) : (s.sent b a).cfg = s.cfg := by
  unfold State.sent; split <;> rfl
@[simp] theorem State.sent_answers (s : State) (b : Byte) (a : Bool) : (s.sent b a).answers = s.answers := by
  unfold State.sent; split <;> rfl
@[simp] theorem State.sent_busCount (s : State) (b : Byte) (a : Bool) : (s.sent b a).busCount = s.busCount := by
  unfold State.sent; split <;> rfl
@[simp] theorem State.sent_inputs (s : State) (b : Byte) (a : Bool) : (s.sent b a).inputs = s.inputs := by
  unfold State.sent; split <;> rfl
@[simp] theorem State.sent_hostLog (s : State) (b : Byte) (a : Bool) : (s.sent b a).hostLog = s.hostLog := by
  unfold State.sent; split <;> rfl

end Sys2Proof.Machine
end

