-- ==== Sys2Proof/Laws/Bus.lean ====
section
/-! SUPPORT. What a bus action can do: the reply a scripted environment gives, everything a completed or unanswered action
leaves (`BusWork`), and the one status each action needs. -/

namespace Sys2Proof.Machine

open Sys2Proof.Config

/-! ### Scripted replies (log entry 1) -/

theorem State.startReply_of {s : State} {a : Reply} {r : StartReply} {rest : List Reply} (h : s.answers = a :: rest)
    (ha : Reply.toStart a = some r) : s.startReply = r := by
  simp [State.startReply, h, ha]

theorem State.sendReply_of {s : State} {b : Byte} {a : Reply} {r : SendReply} {rest : List Reply}
    (h : s.answers = a :: rest) (ha : Reply.toSend a = some r) : s.sendReply b = r := by
  simp [State.sendReply, h, ha]

theorem State.recvReply_of {s : State} {ack : Bool} {a : Reply} {r : RecvReply} {rest : List Reply}
    (h : s.answers = a :: rest) (ha : Reply.toRecv a = some r) : s.recvReply ack = r := by
  simp [State.recvReply, h, ha]

theorem State.stopReply_of {s : State} {a : Reply} {r : StopReply} {rest : List Reply} (h : s.answers = a :: rest)
    (ha : Reply.toStop a = some r) : s.stopReply = r := by
  simp [State.stopReply, h, ha]

/-! ### A byte sent -/

/-- The first byte after a start is the address byte (R136). -/
theorem State.sent_of_address {s : State} (h : s.phase = .started) (b : Byte) (ack : Bool) :
    s.sent b ack = s.complete (addrCode (dirOfAddr b) ack) .addrSent (dirOfAddr b) (.tx b ack) := by
  rw [State.sent, h]

/-- Any other byte is a data byte (R136). -/
theorem State.sent_of_data {s : State} (h : s.phase ≠ .started) (b : Byte) (ack : Bool) :
    s.sent b ack = s.complete (sentCode ack) .dataPhase s.dir (.tx b ack) := by
  cases hp : s.phase with
  | started => exact absurd hp h
  | idle | addrSent | dataPhase | stopped => rw [State.sent, hp]

/-! ### What bus work does to a state -/

/-- What any sequence of bus actions keeps. It may write CTRL, STATUS, DATA, RESULT, PHASE, DIR, RXBUF, RX_LEN, IDX, TPC,
ERR, and it appends to HIST; it keeps everything else and every invariant about what it writes. -/
structure BusWork (s t : State) : Prop where
  sensor : SameSensor s t
  held : SameHeld s t
  ok : t.ok = s.ok
  fail : t.fail = s.fail
  busy : t.busy = s.busy
  spc : t.spc = s.spc
  en : s.en = true → t.en = true
  hist : ∃ events, t.hist = s.hist ++ events
  registers : s.RegisterInv → t.RegisterInv
  ownership : s.OwnershipInv → t.OwnershipInv
  buffer : s.BufferInv → t.BufferInv

theorem SameSensor.refl (s : State) : SameSensor s s := by constructor <;> rfl

theorem SameSensor.trans {s t u : State} (h : SameSensor s t) (k : SameSensor t u) : SameSensor s u := by
  constructor <;> first
    | exact k.cal.trans h.cal | exact k.calValid.trans h.calValid | exact k.measOk.trans h.measOk
    | exact k.rawTValid.trans h.rawTValid | exact k.rawPValid.trans h.rawPValid
    | exact k.tFineValid.trans h.tFineValid | exact k.rawT.trans h.rawT | exact k.rawP.trans h.rawP
    | exact k.tFine.trans h.tFine | exact k.temp.trans h.temp | exact k.press.trans h.press
    | exact k.divg.trans h.divg | exact k.rdT.trans h.rdT | exact k.rdP.trans h.rdP
    | exact k.accT.trans h.accT | exact k.accP.trans h.accP | exact k.cyc.trans h.cyc

theorem SameHeld.refl (s : State) : SameHeld s s := by constructor <;> rfl

theorem SameHeld.trans {s t u : State} (h : SameHeld s t) (k : SameHeld t u) : SameHeld s u :=
  ⟨k.cmd.trans h.cmd, k.bitrate.trans h.bitrate, k.cfg.trans h.cfg, k.inputs.trans h.inputs,
    k.hostLog.trans h.hostLog⟩

theorem SameBuffer.refl (s : State) : SameBuffer s s := ⟨rfl, rfl, rfl⟩

theorem SameBuffer.trans {s t u : State} (h : SameBuffer s t) (k : SameBuffer t u) : SameBuffer s u :=
  ⟨k.rxbuf.trans h.rxbuf, k.rxLen.trans h.rxLen, k.idx.trans h.idx⟩

theorem BusWork.refl (s : State) : BusWork s s :=
  ⟨.refl s, .refl s, rfl, rfl, rfl, rfl, id, ⟨[], by simp⟩, id, id, id⟩

theorem BusWork.trans {s t u : State} (h : BusWork s t) (k : BusWork t u) : BusWork s u where
  sensor := h.sensor.trans k.sensor
  held := h.held.trans k.held
  ok := k.ok.trans h.ok
  fail := k.fail.trans h.fail
  busy := k.busy.trans h.busy
  spc := k.spc.trans h.spc
  en := k.en ∘ h.en
  hist := by
    obtain ⟨a, ha⟩ := h.hist
    obtain ⟨b, hb⟩ := k.hist
    exact ⟨a ++ b, by rw [hb, ha, List.append_assoc]⟩
  registers := k.registers ∘ h.registers
  ownership := k.ownership ∘ h.ownership
  buffer := k.buffer ∘ h.buffer

/-- Labels, the error record and the counters of a read are free. -/
theorem BusWork.of_labels {s t : State} (h : BusWork s t) (tp : TLabel) (e : Word) (n k : Byte) :
    BusWork s { t with tpc := tp, err := e, rxLen := n, idx := k } :=
  h.trans ⟨by constructor <;> rfl, by constructor <;> rfl, rfl, rfl, rfl, rfl, id, ⟨[], by simp⟩, id, id, id⟩

/-! ### The four actions -/

/-- What one bus action keeps beside `BusWork`: the buffer, the labels and the error record. -/
structure ActionWork (s t : State) : Prop extends BusWork s t where
  kept : SameBuffer s t
  tpc : t.tpc = s.tpc
  err : t.err = s.err

/-- Where a wait ends: in `D` when the action completed, in `T` when the wait gave up, in `H` when it hangs. -/
def Waited.Ends (D T H : State → Prop) : Waited → Prop
  | .completed s => D s
  | .timedOut s => T s
  | .hung s => H s

/-- A trigger writes a legal CTRL value and `NO_INFO`, loses no event and no ownership. -/
theorem ActionWork.of_trigger (s : State) {c : Byte} (d : Byte) (hc : c &&& 0x0B#8 = 0#8) (he : c.getLsbD 2 = true) :
    ActionWork s ({ s with data := d }.trigger c).asked where
  sensor := by constructor <;> rfl
  held := by constructor <;> rfl
  ok := rfl
  fail := rfl
  busy := rfl
  spc := rfl
  en := fun _ => he
  hist := ⟨[], by simp⟩
  registers := fun _ => ⟨hc, by
    show withCode .noInfo s.status &&& 4#8 = 0#8
    ext i hi
    interval_cases i <;> simp [withCode, StatusCode.byte], .noInfo, by
    show withCode .noInfo s.status &&& 0xF8#8 = _
    simp⟩
  ownership := id
  buffer := id
  kept := ⟨rfl, rfl, rfl⟩
  tpc := rfl
  err := rfl

theorem ActionWork.trans_bus {s t u : State} (h : ActionWork s t) (k : ActionWork t u) : ActionWork s u where
  toBusWork := h.toBusWork.trans k.toBusWork
  kept := h.kept.trans k.kept
  tpc := k.tpc.trans h.tpc
  err := k.err.trans h.err

theorem histOwned_append (h : List BusEvent) (e : BusEvent) : histOwned (h ++ [e]) = histOwned [e] := by
  simp [histOwned]

/-- A completion keeps the registers legal and ownership in step with the history, when the phase and direction it writes
fit its event. -/
theorem ActionWork.of_complete (s : State) (d r : Byte) (c : StatusCode) {p : Phase} {dir : Dir} {e : BusEvent}
    (hp : State.owned { s with phase := p } = histOwned [e]) (hd : dir = .r → p = .addrSent ∨ p = .dataPhase) :
    ActionWork s ({ s with data := d, result := r }.complete c p dir e) where
  sensor := by constructor <;> rfl
  held := by constructor <;> rfl
  ok := rfl
  fail := rfl
  busy := rfl
  spc := rfl
  en := by
    intro h
    show (s.ctrl ||| 0x80#8).getLsbD 2 = true
    simpa [State.en] using h
  hist := ⟨[e], rfl⟩
  registers := by
    rintro ⟨h, -, -⟩
    refine ⟨?_, ?_, c, ?_⟩
    · show (s.ctrl ||| 0x80#8) &&& 0x0B#8 = 0#8
      have : (0x80#8 &&& 0x0B#8 : Byte) = 0#8 := rfl
      rw [BitVec.and_comm, BitVec.and_or_distrib_left, BitVec.and_comm, h, BitVec.and_comm, this]
      rfl
    · show withCode c s.status &&& 4#8 = 0#8
      have : (c.byte &&& 4#8 : Byte) = 0#8 := by cases c <;> rfl
      have k : (3#8 &&& 4#8 : Byte) = 0#8 := rfl
      rw [withCode, BitVec.and_comm, BitVec.and_or_distrib_left, BitVec.and_comm, this, BitVec.and_comm,
        BitVec.and_assoc, k]
      simp
    · show withCode c s.status &&& 0xF8#8 = _
      simp
  ownership := fun _ => ⟨by
    show State.owned { s with phase := p } = histOwned (s.hist ++ [e])
    rw [hp, histOwned_append], hd⟩
  buffer := id
  kept := ⟨rfl, rfl, rfl⟩
  tpc := rfl
  err := rfl

/-- An action that is never answered: the limit decides between giving up and hanging (R131). -/
theorem unanswered_ends {s t : State} {D : State → Prop} (h : ActionWork s t) (hc : t.cfg = s.cfg) :
    t.unanswered.Ends D (fun u => u = t ∧ ActionWork s u ∧ ∃ n, s.cfg.waitLimit = .finite n)
      (fun u => u = t ∧ ActionWork s u ∧ s.cfg.waitLimit = .inf) := by
  cases hw : t.cfg.waitLimit with
  | inf => simp only [State.unanswered, hw, Waited.Ends]; exact ⟨trivial, h, hc ▸ hw⟩
  | finite n => simp only [State.unanswered, hw, Waited.Ends]; exact ⟨trivial, h, n, hc ▸ hw⟩

/-- What a bus action can do (R131, R133): the three ends of a start. A start that is answered `START` was a first start. -/
theorem busStart_ends (s : State) :
    (busStart s).Ends
      (fun t => ActionWork s t ∧ t.result = s.result ∧ t.data = s.data
        ∧ ((s.startReply = .done ∧ t.code = (startCode s.owned).byte ∧ t.phase = .started ∧ t.dir = .w
            ∧ t.hist = s.hist ++ [startEvent s.owned])
          ∨ (s.startReply = .busErr ∧ t.code = StatusCode.busError.byte ∧ t.phase = .idle ∧ t.dir = .w
            ∧ t.hist = s.hist ++ [.busErr])))
      (fun t => t = (s.trigger 0x24#8).asked ∧ ActionWork s t ∧ ∃ n, s.cfg.waitLimit = .finite n)
      (fun t => t = (s.trigger 0x24#8).asked ∧ ActionWork s t ∧ s.cfg.waitLimit = .inf) := by
  have ht : ActionWork s (s.trigger 0x24#8).asked := .of_trigger s s.data (by decide) (by decide)
  cases h : s.startReply with
  | done =>
    simp only [busStart, h, Waited.Ends]
    refine ⟨ht.trans_bus (.of_complete _ s.data s.result _ ?_ (by simp)), rfl, rfl, .inl ⟨trivial, ?_, rfl, rfl, rfl⟩⟩
    · cases s.owned <;> rfl
    · exact withCode_and_mask _ _
  | busErr =>
    simp only [busStart, h, Waited.Ends]
    exact ⟨ht.trans_bus (.of_complete _ s.data s.result _ rfl (by simp)), rfl, rfl,
      .inr ⟨trivial, withCode_and_mask _ _, rfl, rfl, rfl⟩⟩
  | never =>
    simp only [busStart, h]
    exact unanswered_ends ht rfl

/-- What a send can do (R131, R136). -/
theorem busSend_ends (b : Byte) (s : State) :
    (busSend b s).Ends
      (fun t => ActionWork s t ∧ t.result = s.result ∧ t.data = b
        ∧ ((∃ a : Bool, s.sendReply b = (if a then .ack else .nack) ∧ t.hist = s.hist ++ [.tx b a]
            ∧ ((s.phase = .started ∧ t.code = (addrCode (dirOfAddr b) a).byte ∧ t.phase = .addrSent
                ∧ t.dir = dirOfAddr b)
              ∨ (s.phase ≠ .started ∧ t.code = (sentCode a).byte ∧ t.phase = .dataPhase ∧ t.dir = s.dir)))
          ∨ (s.sendReply b = .arbLost ∧ t.code = StatusCode.arbLost.byte ∧ t.phase = .idle ∧ t.dir = .w
            ∧ t.hist = s.hist ++ [.arbLost])
          ∨ (s.sendReply b = .busErr ∧ t.code = StatusCode.busError.byte ∧ t.phase = .idle ∧ t.dir = .w
            ∧ t.hist = s.hist ++ [.busErr])))
      (fun t => t = s.sendTriggered b ∧ ActionWork s t ∧ ∃ n, s.cfg.waitLimit = .finite n)
      (fun t => t = s.sendTriggered b ∧ ActionWork s t ∧ s.cfg.waitLimit = .inf) := by
  have ht : ActionWork s (s.sendTriggered b) := .of_trigger s b (by decide) (by decide)
  have hsent : ∀ a : Bool, s.sendReply b = (if a then .ack else .nack) →
      ActionWork s ((s.sendTriggered b).sent b a) ∧ ((s.sendTriggered b).sent b a).result = s.result
        ∧ ((s.sendTriggered b).sent b a).data = b
        ∧ ((s.sendTriggered b).sent b a).hist = s.hist ++ [.tx b a]
        ∧ ((s.phase = .started ∧ ((s.sendTriggered b).sent b a).code = (addrCode (dirOfAddr b) a).byte
              ∧ ((s.sendTriggered b).sent b a).phase = .addrSent ∧ ((s.sendTriggered b).sent b a).dir = dirOfAddr b)
            ∨ (s.phase ≠ .started ∧ ((s.sendTriggered b).sent b a).code = (sentCode a).byte
              ∧ ((s.sendTriggered b).sent b a).phase = .dataPhase ∧ ((s.sendTriggered b).sent b a).dir = s.dir)) := by
    intro a _
    by_cases hs : s.phase = .started
    · rw [State.sent_of_address (show (s.sendTriggered b).phase = .started from hs)]
      exact ⟨ht.trans_bus (.of_complete _ b s.result _ rfl (fun _ => .inl rfl)), rfl, rfl, rfl,
        .inl ⟨hs, withCode_and_mask _ _, rfl, rfl⟩⟩
    · rw [State.sent_of_data (show (s.sendTriggered b).phase ≠ .started from hs)]
      exact ⟨ht.trans_bus (.of_complete _ b s.result _ rfl (fun _ => .inr rfl)), rfl, rfl, rfl,
        .inr ⟨hs, withCode_and_mask _ _, rfl, rfl⟩⟩
  cases h : s.sendReply b with
  | ack =>
    simp only [busSend, h, Waited.Ends]
    obtain ⟨h1, h2, h3, h4, h5⟩ := hsent true h
    exact ⟨h1, h2, h3, .inl ⟨true, rfl, h4, h5⟩⟩
  | nack =>
    simp only [busSend, h, Waited.Ends]
    obtain ⟨h1, h2, h3, h4, h5⟩ := hsent false h
    exact ⟨h1, h2, h3, .inl ⟨false, rfl, h4, h5⟩⟩
  | arbLost =>
    simp only [busSend, h, Waited.Ends]
    exact ⟨ht.trans_bus (.of_complete _ b s.result _ rfl (by simp)), rfl, rfl,
      .inr (.inl ⟨trivial, withCode_and_mask _ _, rfl, rfl, rfl⟩)⟩
  | busErr =>
    simp only [busSend, h, Waited.Ends]
    exact ⟨ht.trans_bus (.of_complete _ b s.result _ rfl (by simp)), rfl, rfl,
      .inr (.inr ⟨trivial, withCode_and_mask _ _, rfl, rfl, rfl⟩)⟩
  | never =>
    simp only [busSend, h]
    exact unanswered_ends ht rfl

/-- What a receive can do (R131, R137). -/
theorem busRecv_ends (ack : Bool) (s : State) :
    (busRecv ack s).Ends
      (fun t => ActionWork s t
        ∧ ((∃ v, s.recvReply ack = .byte v ∧ t.code = (recvCode ack).byte ∧ t.phase = .dataPhase ∧ t.dir = s.dir
            ∧ t.data = v ∧ t.result = v ∧ t.hist = s.hist ++ [.rx v ack])
          ∨ (s.recvReply ack = .arbLost ∧ t.code = StatusCode.arbLost.byte ∧ t.phase = .idle ∧ t.dir = .w
            ∧ t.data = s.data ∧ t.result = s.result ∧ t.hist = s.hist ++ [.arbLost])
          ∨ (s.recvReply ack = .busErr ∧ t.code = StatusCode.busError.byte ∧ t.phase = .idle ∧ t.dir = .w
            ∧ t.data = s.data ∧ t.result = s.result ∧ t.hist = s.hist ++ [.busErr])))
      (fun t => t = (s.trigger (recvCtrl ack)).asked ∧ ActionWork s t ∧ ∃ n, s.cfg.waitLimit = .finite n)
      (fun t => t = (s.trigger (recvCtrl ack)).asked ∧ ActionWork s t ∧ s.cfg.waitLimit = .inf) := by
  have ht : ActionWork s (s.trigger (recvCtrl ack)).asked :=
    .of_trigger s s.data (by cases ack <;> decide) (by cases ack <;> decide)
  cases h : s.recvReply ack with
  | byte v =>
    simp only [busRecv, h, Waited.Ends]
    exact ⟨ht.trans_bus (.of_complete _ v v _ rfl (fun _ => .inr rfl)),
      .inl ⟨v, rfl, withCode_and_mask _ _, rfl, rfl, rfl, rfl, rfl⟩⟩
  | arbLost =>
    simp only [busRecv, h, Waited.Ends]
    exact ⟨ht.trans_bus (.of_complete _ s.data s.result _ rfl (by simp)),
      .inr (.inl ⟨trivial, withCode_and_mask _ _, rfl, rfl, rfl, rfl, rfl⟩)⟩
  | busErr =>
    simp only [busRecv, h, Waited.Ends]
    exact ⟨ht.trans_bus (.of_complete _ s.data s.result _ rfl (by simp)),
      .inr (.inr ⟨trivial, withCode_and_mask _ _, rfl, rfl, rfl, rfl, rfl⟩)⟩
  | never =>
    simp only [busRecv, h]
    exact unanswered_ends ht rfl

/-- The release of the bus after a stop that was put on it, or that had nothing to stop. -/
theorem ActionWork.of_released (s : State) {events : List BusEvent} (he : histOwned (s.hist ++ events) = false)
    : ActionWork s { s with hist := s.hist ++ events }.released where
  sensor := by constructor <;> rfl
  held := by constructor <;> rfl
  ok := rfl
  fail := rfl
  busy := rfl
  spc := rfl
  en := by
    intro h
    show (s.ctrl &&& 0xEF#8).getLsbD 2 = true
    simpa [State.en] using h
  hist := ⟨events, rfl⟩
  registers := by
    rintro ⟨h, h1, h2⟩
    refine ⟨?_, h1, h2⟩
    show s.ctrl &&& 0xEF#8 &&& 0x0B#8 = 0#8
    rw [BitVec.and_assoc, BitVec.and_comm 0xEF#8, ← BitVec.and_assoc, h]
    rfl
  ownership := fun _ => ⟨he.symm, by rintro ⟨⟩⟩
  buffer := id
  kept := ⟨rfl, rfl, rfl⟩
  tpc := rfl
  err := rfl

/-- A release without an event keeps everything too: the bus was not owned. -/
theorem ActionWork.of_released_idle (s : State) (ho : s.owned = false) : ActionWork s s.released :=
  let k := ActionWork.of_released s (events := [.stop]) (by simp [histOwned])
  { sensor := by constructor <;> rfl
    held := by constructor <;> rfl
    ok := rfl
    fail := rfl
    busy := rfl
    spc := rfl
    en := k.en
    hist := ⟨[], by simp⟩
    registers := k.registers
    ownership := fun h => ⟨(ho.symm.trans h.1 ▸ rfl : false = histOwned s.hist), by rintro ⟨⟩⟩
    buffer := id
    kept := ⟨rfl, rfl, rfl⟩
    tpc := rfl
    err := rfl }

/-- What a stop can do (R131, R135). -/
theorem busStop_ends (s : State) :
    (busStop s).Ends
      (fun t => ActionWork s t ∧ t.result = s.result ∧ t.data = s.data ∧ t.phase = .stopped ∧ t.dir = .w
        ∧ t.code = StatusCode.noInfo.byte
        ∧ ((s.owned = true ∧ s.stopReply = .done ∧ t.hist = s.hist ++ [.stop])
          ∨ (s.owned = false ∧ t.hist = s.hist ∧ t.answers = s.answers ∧ t.busCount = s.busCount)))
      (fun t => s.owned = true ∧ t = (s.trigger 0x14#8).asked ∧ ActionWork s t ∧ ∃ n, s.cfg.waitLimit = .finite n)
      (fun t => s.owned = true ∧ t = (s.trigger 0x14#8).asked ∧ ActionWork s t ∧ s.cfg.waitLimit = .inf) := by
  have ht : ActionWork s (s.trigger 0x14#8).asked := .of_trigger s s.data (by decide) (by decide)
  have hq : ActionWork s (s.trigger 0x14#8) :=
    { ht with
      sensor := by constructor <;> rfl
      held := by constructor <;> rfl
      kept := ⟨rfl, rfl, rfl⟩ }
  by_cases ho : s.owned = true
  · simp only [busStop, ho, if_true]
    cases h : s.stopReply with
    | done =>
      exact ⟨ht.trans_bus (.of_released _ (events := [.stop]) (by simp [histOwned])), rfl, rfl, rfl, rfl,
        withCode_and_mask _ _, .inl ⟨trivial, rfl, rfl⟩⟩
    | never =>
      have := unanswered_ends (D := fun _ => False) ht rfl
      cases hw : (s.trigger 0x14#8).asked.unanswered <;> simp_all [Waited.Ends]
  · have ho' : s.owned = false := by simpa using ho
    simp only [busStop, ho, Waited.Ends]
    exact ⟨hq.trans_bus (.of_released_idle _ ho'), rfl, rfl, rfl, rfl, withCode_and_mask _ _,
      .inr ⟨trivial, rfl, rfl, rfl⟩⟩

end Sys2Proof.Machine
end

