-- ==== Sys2Proof/Laws/Acked.lean ====
section
/-! SUPPORT. The sequencer against an environment that answers everything as asked (log entry 1): one lemma per step, and
the two transactions run whole. -/

namespace Sys2Proof.Machine

open Sys2Proof.Config

/-- The prescaler bits under the code `c`. -/
theorem withCode_eq (c : StatusCode) (st : Byte) : withCode c st = c.byte ||| (st &&& 0x03#8) := rfl

/-- T1 on a free bus, answered. -/
theorem seqStep_t1_done (kind : ErrKind) {s : State} {rest : List Reply} (ho : s.owned = false)
    (ha : s.answers = .done :: rest) :
    seqStep kind .t1 busStart s = .done { s with
      tpc := .t1, ctrl := 0xA4#8, status := withCode .start s.status, phase := .started, dir := .w
      hist := s.hist ++ [.start], answers := rest, busCount := s.busCount + 1 } := by
  have hr : State.startReply { s with tpc := .t1 } = .done := State.startReply_of ha rfl
  have ht : s.answers.tail = rest := by rw [ha]; rfl
  have ho' : State.owned { s with tpc := .t1 } = false := ho
  simp [seqStep, busStart, hr, ho', startCode, startEvent, expectCode, TLabel.expected, State.code, State.complete,
    State.asked, State.trigger, ht]

/-- T5 on an owned bus, answered. -/
theorem seqStep_t5_done (kind : ErrKind) {s : State} {rest : List Reply} (ho : s.owned = true)
    (ha : s.answers = .done :: rest) :
    seqStep kind .t5 busStart s = .done { s with
      tpc := .t5, ctrl := 0xA4#8, status := withCode .repStart s.status, phase := .started, dir := .w
      hist := s.hist ++ [.repStart], answers := rest, busCount := s.busCount + 1 } := by
  have hr : State.startReply { s with tpc := .t5 } = .done := State.startReply_of ha rfl
  have ht : s.answers.tail = rest := by rw [ha]; rfl
  have ho' : State.owned { s with tpc := .t5 } = true := ho
  simp [seqStep, busStart, hr, ho', startCode, startEvent, expectCode, TLabel.expected, State.code, State.complete,
    State.asked, State.trigger, ht]

theorem dirOfAddr_slaW (dev : DevAddr) : dirOfAddr (slaW dev) = .w := by
  simp [dirOfAddr, slaW]

theorem dirOfAddr_slaR (dev : DevAddr) : dirOfAddr (slaR dev) = .r := by
  simp [dirOfAddr, slaR]

/-- T2 after a start, acknowledged. -/
theorem seqStep_t2_ack (kind : ErrKind) (dev : DevAddr) {s : State} {rest : List Reply} (hp : s.phase = .started)
    (ha : s.answers = .ack :: rest) :
    seqStep kind .t2 (busSend (slaW dev)) s = .done { s with
      tpc := .t2, ctrl := 0x84#8, status := withCode .slaWAck s.status, data := slaW dev, phase := .addrSent, dir := .w
      hist := s.hist ++ [.tx (slaW dev) true], answers := rest, busCount := s.busCount + 1 } := by
  have hr : State.sendReply { s with tpc := .t2 } (slaW dev) = .ack := State.sendReply_of ha rfl
  have ht : s.answers.tail = rest := by rw [ha]; rfl
  simp only [seqStep, busSend, hr]
  simp [State.sent, State.sendTriggered, hp, dirOfAddr_slaW, addrCode, expectCode,
    TLabel.expected, State.code, State.complete, State.asked, State.trigger, ht]

/-- T6 after a repeated start, acknowledged. -/
theorem seqStep_t6_ack (kind : ErrKind) (dev : DevAddr) {s : State} {rest : List Reply} (hp : s.phase = .started)
    (ha : s.answers = .ack :: rest) :
    seqStep kind .t6 (busSend (slaR dev)) s = .done { s with
      tpc := .t6, ctrl := 0x84#8, status := withCode .slaRAck s.status, data := slaR dev, phase := .addrSent, dir := .r
      hist := s.hist ++ [.tx (slaR dev) true], answers := rest, busCount := s.busCount + 1 } := by
  have hr : State.sendReply { s with tpc := .t6 } (slaR dev) = .ack := State.sendReply_of ha rfl
  have ht : s.answers.tail = rest := by rw [ha]; rfl
  simp only [seqStep, busSend, hr]
  simp [State.sent, State.sendTriggered, hp, dirOfAddr_slaR, addrCode, expectCode,
    TLabel.expected, State.code, State.complete, State.asked, State.trigger, ht]

/-- T3 or T4, a data byte acknowledged. -/
theorem seqStep_data_ack (kind : ErrKind) {label : TLabel} (hl : label.expected = some .mtDataAck) (b : Byte) {s : State}
    {rest : List Reply} (hp : s.phase = .addrSent ∨ s.phase = .dataPhase) (ha : s.answers = .ack :: rest) :
    seqStep kind label (busSend b) s = .done { s with
      tpc := label, ctrl := 0x84#8, status := withCode .mtDataAck s.status, data := b, phase := .dataPhase
      hist := s.hist ++ [.tx b true], answers := rest, busCount := s.busCount + 1 } := by
  have hr : State.sendReply { s with tpc := label } b = .ack := State.sendReply_of ha rfl
  have ht : s.answers.tail = rest := by rw [ha]; rfl
  have hd : State.phase (State.sendTriggered { s with tpc := label } b) ≠ .started := by
    rcases hp with hp | hp <;> simp [hp]
  simp only [seqStep, busSend, hr]
  rw [State.sent_of_data hd]
  simp [State.sendTriggered, sentCode, expectCode, hl, State.code, State.complete, State.asked, State.trigger, ht]

/-- T7 or T8, a byte received and stored. -/
theorem recvStep_byte (kind : ErrKind) {label : TLabel} {ack : Bool} (hl : label.expected = some (recvCode ack))
    {b : Byte} {s : State} {rest : List Reply} (ha : s.answers = .byte b :: rest) :
    recvStep kind label ack s = .done { s with
      tpc := label, ctrl := recvCtrl ack ||| 0x80#8, status := withCode (recvCode ack) s.status, data := b, result := b
      phase := .dataPhase, rxbuf := s.rxbuf.write s.idx.toNat b, idx := s.idx + 1#8
      hist := s.hist ++ [.rx b ack], answers := rest, busCount := s.busCount + 1 } := by
  have hr : State.recvReply { s with tpc := label } ack = .byte b := State.recvReply_of ha rfl
  have ht : s.answers.tail = rest := by rw [ha]; rfl
  simp [recvStep, seqStep, busRecv, hr, expectCode, hl, State.code, State.complete, State.asked, State.trigger, ht,
    State.storeByte]

/-- T9 on an owned bus, answered. -/
theorem seqStep_t9_done (kind : ErrKind) {s : State} {rest : List Reply} (ho : s.owned = true)
    (ha : s.answers = .done :: rest) :
    seqStep kind .t9 busStop s = .done { s with
      tpc := .t9, ctrl := 0x04#8, status := withCode .noInfo s.status, phase := .stopped, dir := .w
      hist := s.hist ++ [.stop], answers := rest, busCount := s.busCount + 1 } := by
  have hr : State.stopReply { s with tpc := .t9 } = .done := State.stopReply_of ha rfl
  have ht : s.answers.tail = rest := by rw [ha]; rfl
  have ho' : State.owned { s with tpc := .t9 } = true := ho
  simp [seqStep, busStop, hr, ho', expectCode, TLabel.expected, State.released, State.asked, State.trigger, ht]

/-- The addressing preamble, acknowledged. -/
theorem preamble_acked (kind : ErrKind) (dev : DevAddr) (reg : Byte) {s : State} {rest : List Reply}
    (ho : s.owned = false) (ha : s.answers = .done :: .ack :: .ack :: rest) :
    preamble kind dev reg s = .done { s with
      tpc := .t3, ctrl := 0x84#8, status := withCode .mtDataAck s.status, data := reg, phase := .dataPhase, dir := .w
      hist := s.hist ++ [.start, .tx (slaW dev) true, .tx reg true], answers := rest, busCount := s.busCount + 3 } := by
  rw [preamble, seqStep_t1_done _ ho ha, Run.done_andThen, seqStep_t2_ack _ _ rfl rfl, Run.done_andThen,
    seqStep_data_ack _ rfl _ (.inl rfl) rfl]
  simp

/-- A complete write transaction (R162). -/
theorem memWrite_acked (dev : DevAddr) (reg v : Byte) {s : State} {rest : List Reply} (ho : s.owned = false)
    (ha : s.answers = ackedWrite ++ rest) :
    memWrite dev reg v s = .done { s with
      tpc := .t0, ctrl := 0x04#8, status := withCode .noInfo s.status, data := v, phase := .stopped, dir := .w
      hist := s.hist ++ writeEvents dev reg v, answers := rest, busCount := s.busCount + 5 } := by
  rw [ackedWrite] at ha
  simp only [List.cons_append, List.nil_append] at ha
  rw [memWrite, preamble_acked _ _ _ ho ha, Run.done_andThen, seqStep_data_ack _ rfl _ (.inr rfl) rfl,
    Run.done_andThen, seqStep_t9_done _ rfl rfl]
  simp [writeEvents]

/-- What `recvAcked` and the last receive make of a state that receives `bytes`: the loop over T7, then T8. -/
theorem receives_acked (kind : ErrKind) : ∀ (bytes : List Byte) {s : State} {rest : List Reply} (_ : bytes ≠ [])
    (_ : s.idx.toNat + bytes.length ≤ 255) (_ : s.answers = bytes.map .byte ++ rest),
    ((recvAcked kind (bytes.length - 1) s).andThen fun s => recvStep kind .t8 false s) = .done { s with
      tpc := .t8, ctrl := 0x84#8, status := withCode .mrDataNoack s.status, data := bytes.getLastD 0
      result := bytes.getLastD 0, phase := .dataPhase, rxbuf := storeBytes s.rxbuf s.idx.toNat bytes
      idx := s.idx + BitVec.ofNat 8 bytes.length, hist := s.hist ++ rxEvents bytes, answers := rest
      busCount := s.busCount + bytes.length }
  | [], _, _, h, _, _ => absurd rfl h
  | [b], s, rest, _, hi, ha => by
    simp only [List.map_cons, List.map_nil, List.cons_append, List.nil_append] at ha
    rw [List.length_singleton, Nat.sub_self, recvAcked, Run.done_andThen, recvStep_byte kind rfl ha]
    simp [recvCtrl, recvCode, storeBytes, rxEvents]
  | b :: b' :: bs, s, rest, _, hi, ha => by
    simp only [List.length_cons] at hi
    have hidx : (s.idx + 1#8).toNat = s.idx.toNat + 1 := by
      rw [BitVec.toNat_add, BitVec.toNat_ofNat]
      omega
    have ih := receives_acked kind (b' :: bs) (rest := rest) (s := { s with
      tpc := .t7, ctrl := recvCtrl true ||| 0x80#8, status := withCode (recvCode true) s.status, data := b, result := b
      phase := .dataPhase, rxbuf := s.rxbuf.write s.idx.toNat b, idx := s.idx + 1#8
      hist := s.hist ++ [.rx b true], answers := (b' :: bs).map .byte ++ rest, busCount := s.busCount + 1 })
      (by simp) (by simp only [List.length_cons]; omega) rfl
    simp only [List.map_cons, List.cons_append] at ha
    have hlen : (b :: b' :: bs).length - 1 = ((b' :: bs).length - 1) + 1 := by simp
    rw [hlen, recvAcked, recvStep_byte kind (label := .t7) (ack := true) rfl ha, Run.done_andThen]
    simp only [List.map_cons, List.cons_append] at ih
    rw [ih, hidx]
    simp [storeBytes, rxEvents, BitVec.ofNat_add, BitVec.add_assoc, Nat.add_comm, Nat.add_left_comm]
    omega

/-- A complete read transaction (R164). -/
theorem memRead_acked (kind : ErrKind) (dev : DevAddr) (reg count : Byte) (bytes : List Byte) {s : State}
    {rest : List Reply} (ho : s.owned = false) (hl : bytes.length = count.toNat) (hc : count ≠ 0#8)
    (ha : s.answers = ackedRead bytes ++ rest) :
    memRead kind dev reg count s = .done { s with
      tpc := .t0, ctrl := 0x04#8, status := withCode .noInfo s.status, data := bytes.getLastD 0
      result := bytes.getLastD 0, phase := .stopped, dir := .w, rxbuf := storeBytes s.rxbuf 0 bytes, rxLen := count
      idx := count, hist := s.hist ++ readEvents dev reg bytes, answers := rest
      busCount := s.busCount + 6 + bytes.length } := by
  have hle : count.toNat ≤ 255 := by have := count.isLt; omega
  have hne : bytes ≠ [] := by
    rintro rfl
    exact hc (BitVec.eq_of_toNat_eq (by simpa using hl.symm))
  have hof : BitVec.ofNat 8 bytes.length = count := by rw [hl]; simp
  rw [ackedRead] at ha
  simp only [List.cons_append, List.nil_append, List.append_assoc] at ha
  have assoc : ∀ (r : Run) (f g : State → Run), (r.andThen fun s => (f s).andThen g) = (r.andThen f).andThen g := by
    intro r f g
    cases r <;> rfl
  rw [memRead, preamble_acked _ _ _ (s := { s with rxLen := 0#8, idx := 0#8 }) ho ha, Run.done_andThen,
    seqStep_t5_done _ rfl rfl, Run.done_andThen, seqStep_t6_ack _ _ rfl rfl, Run.done_andThen, ← hl, assoc]
  rw [receives_acked kind bytes (rest := .done :: rest) hne (by show 0 + _ ≤ 255; omega) rfl, Run.done_andThen]
  rw [seqStep_t9_done _ rfl rfl]
  rw [Run.done_andThen]
  have hb : s.busCount + 3 + 1 + 1 + bytes.length + 1 = s.busCount + 6 + bytes.length := by omega
  have hi : (0#8 + BitVec.ofNat 8 bytes.length) = count := by rw [hof, BitVec.zero_add]
  simp only [hb, hi, withCode_withCode, readEvents, List.append_assoc, List.cons_append, List.nil_append]
  rfl

end Sys2Proof.Machine
end

