-- ==== Sys2Proof/Laws/Decode.lean ====
section
/-! SUPPORT. The format `CW` (spec/30_encoding.md R101): the fields of a word built from fields, and a word rebuilt from its
fields; and what each operand form accepts. -/

namespace Sys2Proof

@[simp] theorem cwOp_cwWord (op : Byte) (dev : DevAddr) (reg imm : Byte) : cwOp (cwWord op dev reg imm) = op := by
  ext i hi
  interval_cases i <;> simp [cwOp, cwWord]

@[simp] theorem cwZ_cwWord (op : Byte) (dev : DevAddr) (reg imm : Byte) : cwZ (cwWord op dev reg imm) = 0#1 := by
  ext i hi
  interval_cases i
  simp [cwZ, cwWord]

@[simp] theorem cwDev_cwWord (op : Byte) (dev : DevAddr) (reg imm : Byte) : cwDev (cwWord op dev reg imm) = dev := by
  ext i hi
  interval_cases i <;> simp [cwDev, cwWord]

@[simp] theorem cwReg_cwWord (op : Byte) (dev : DevAddr) (reg imm : Byte) : cwReg (cwWord op dev reg imm) = reg := by
  ext i hi
  interval_cases i <;> simp [cwReg, cwWord]

@[simp] theorem cwImm_cwWord (op : Byte) (dev : DevAddr) (reg imm : Byte) : cwImm (cwWord op dev reg imm) = imm := by
  ext i hi
  interval_cases i <;> simp [cwImm, cwWord]

/-- A word with `z = 0` is its fields. -/
theorem cwWord_fields {w : Word} (h : cwZ w = 0#1) : cwWord (cwOp w) (cwDev w) (cwReg w) (cwImm w) = w := by
  have hz : w[23] = false := by simpa [cwZ] using congrArg (fun x => x.getLsbD 0) h
  ext i hi
  interval_cases i <;> simp [cwWord, cwOp, cwDev, cwReg, cwImm, hz]

theorem takesNothing_ok {w : Word} {i j : Instr} :
    takesNothing w i = .ok j ↔ (cwZ w = 0#1 ∧ cwDev w = 0#7 ∧ cwReg w = 0#8 ∧ cwImm w = 0#8) ∧ i = j := by
  unfold takesNothing; split <;> simp_all

theorem takesImm_ok {w : Word} {i : Byte → Instr} {j : Instr} :
    takesImm w i = .ok j ↔ (cwZ w = 0#1 ∧ cwDev w = 0#7 ∧ cwReg w = 0#8) ∧ i (cwImm w) = j := by
  unfold takesImm; split <;> simp_all

theorem takesAck_ok {w : Word} {i : Bool → Instr} {j : Instr} :
    takesAck w i = .ok j ↔ (cwZ w = 0#1 ∧ cwDev w = 0#7 ∧ cwReg w = 0#8 ∧ (cwImm w).extractLsb' 1 7 = 0#7)
      ∧ i ((cwImm w).getLsbD 0) = j := by
  unfold takesAck; split <;> simp_all

theorem takesDev_ok {w : Word} {i : DevAddr → Instr} {j : Instr} :
    takesDev w i = .ok j ↔ (cwZ w = 0#1 ∧ cwReg w = 0#8 ∧ cwImm w = 0#8) ∧ i (cwDev w) = j := by
  unfold takesDev; split <;> simp_all

theorem takesDevReg_ok {w : Word} {i : DevAddr → Byte → Instr} {j : Instr} :
    takesDevReg w i = .ok j ↔ (cwZ w = 0#1 ∧ cwImm w = 0#8) ∧ i (cwDev w) (cwReg w) = j := by
  unfold takesDevReg; split <;> simp_all

theorem takesAll_ok {w : Word} {i : DevAddr → Byte → Byte → Instr} {j : Instr} :
    takesAll w i = .ok j ↔ cwZ w = 0#1 ∧ i (cwDev w) (cwReg w) (cwImm w) = j := by
  unfold takesAll; split <;> simp_all

theorem checkOperands_ok {d : Except DecodeError Instr} {j : Instr} :
    checkOperands d = .ok j ↔ d = .ok j ∧ j.wf = true := by
  cases d with
  | error e => simp [checkOperands]
  | ok i =>
    by_cases h : i.wf
    · simp only [checkOperands, h, if_true]
      exact ⟨fun e => ⟨e, by cases e; exact h⟩, fun e => e.1⟩
    · simp only [checkOperands, h]
      constructor
      · intro e; cases e
      · rintro ⟨e, g⟩; cases e; exact absurd g h

end Sys2Proof
end

