-- ==== Sys2Proof/Laws/PerInstr.lean ====
section
/-! SUPPORT. The family `EncodedRow`: the word of every command lies in its own row of the opcode map (spec/30_encoding.md
R103). -/

namespace Sys2Proof.Laws.EncodedRow

open Sys2Proof

/-- The masked bits of the command's word are its row's `match`. -/
def Statement (i : Instr) : Prop := encode i &&& i.rowMask = i.rowMatch

theorem init : Statement .init := by
  rfl

theorem start : Statement .start := by
  rfl

theorem rstart : Statement .rstart := by
  rfl

theorem stop : Statement .stop := by
  rfl

theorem wrb (byte : Byte) : Statement (.wrb byte) := by
  show cwWord _ _ _ _ &&& _ = _
  ext i hi
  interval_cases i <;> simp [cwWord, Instr.rowMask, Instr.rowMatch]

theorem rdb (ack : Bool) : Statement (.rdb ack) := by
  cases ack <;> rfl

theorem stat : Statement .stat := by
  rfl

theorem wreg (dev : DevAddr) (reg value : Byte) : Statement (.wreg dev reg value) := by
  show cwWord _ _ _ _ &&& _ = _
  ext i hi
  interval_cases i <;> simp [cwWord, Instr.rowMask, Instr.rowMatch]

theorem rreg (dev : DevAddr) (reg : Byte) : Statement (.rreg dev reg) := by
  show cwWord _ _ _ _ &&& _ = _
  ext i hi
  interval_cases i <;> simp [cwWord, Instr.rowMask, Instr.rowMatch]

theorem rburst (dev : DevAddr) (reg count : Byte) : Statement (.rburst dev reg count) := by
  show cwWord _ _ _ _ &&& _ = _
  ext i hi
  interval_cases i <;> simp [cwWord, Instr.rowMask, Instr.rowMatch]

theorem ldcal (dev : DevAddr) : Statement (.ldcal dev) := by
  show cwWord _ _ _ _ &&& _ = _
  ext i hi
  interval_cases i <;> simp [cwWord, Instr.rowMask, Instr.rowMatch]

theorem reqm (dev : DevAddr) : Statement (.reqm dev) := by
  show cwWord _ _ _ _ &&& _ = _
  ext i hi
  interval_cases i <;> simp [cwWord, Instr.rowMask, Instr.rowMatch]

theorem rdrt (dev : DevAddr) : Statement (.rdrt dev) := by
  show cwWord _ _ _ _ &&& _ = _
  ext i hi
  interval_cases i <;> simp [cwWord, Instr.rowMask, Instr.rowMatch]

theorem rdrp (dev : DevAddr) : Statement (.rdrp dev) := by
  show cwWord _ _ _ _ &&& _ = _
  ext i hi
  interval_cases i <;> simp [cwWord, Instr.rowMask, Instr.rowMatch]

theorem cmpt : Statement .cmpt := by
  rfl

theorem cmpp : Statement .cmpp := by
  rfl

theorem sinit (dev : DevAddr) : Statement (.sinit dev) := by
  show cwWord _ _ _ _ &&& _ = _
  ext i hi
  interval_cases i <;> simp [cwWord, Instr.rowMask, Instr.rowMatch]

theorem sread (dev : DevAddr) : Statement (.sread dev) := by
  show cwWord _ _ _ _ &&& _ = _
  ext i hi
  interval_cases i <;> simp [cwWord, Instr.rowMask, Instr.rowMatch]

end Sys2Proof.Laws.EncodedRow
end

