-- ==== Sys2Proof/Laws/Sequencer.lean ====
section
/-! SUPPORT. What a transaction can do: `WorkEnds` says it once for every part of one, and the two transactions
`memWrite` and `memRead` have it. -/

namespace Sys2Proof.Machine

open Sys2Proof.Config

/-- An error record a transaction writes: it names a kind, and a timeout only under a finite limit (R272, R279). -/
def ErrInfo.FitsLimit (e : ErrInfo) (w : WaitLimit) : Prop :=
  e.kind ≠ .none ∧ (e.kind = .busTimeout → ∃ n, w = .finite n)

/-- Everything a part of a transaction that starts in `s` can do, with `I` kept throughout and `D` at the end when it is
done: bus work; then success, or a failure recorded once, or a hang (R160, R165, R281). -/
def WorkEnds (s : State) (I D : State → Prop) (r : Run) : Prop :=
  r.Ends
    (fun t => BusWork s t ∧ t.err = s.err ∧ I t ∧ D t)
    (fun t => ∃ u e, BusWork s u ∧ I u ∧ ErrInfo.FitsLimit e s.cfg.waitLimit ∧ t = u.failWith e)
    (fun t => BusWork s t ∧ I t ∧ s.cfg.waitLimit = .inf
      ∧ (t.err = s.err ∨ ∃ e, ErrInfo.FitsLimit e s.cfg.waitLimit ∧ t.err = e.word))

/-- The rule of sequencing. -/
theorem WorkEnds.andThen {s : State} {I D D' : State → Prop} {r : Run} {k : State → Run} (h : WorkEnds s I D r)
    (hk : ∀ t, BusWork s t → I t → D t → WorkEnds t I D' (k t)) : WorkEnds s I D' (r.andThen k) := by
  refine Run.Ends.andThen h fun t ⟨hw, he, hI, hD⟩ => ?_
  refine (hk t hw hI hD).mono ?_ ?_ ?_
  · rintro u ⟨a, b, c, d⟩
    exact ⟨hw.trans a, b.trans he, c, d⟩
  · rintro u ⟨v, e, a, b, c, d⟩
    exact ⟨v, e, hw.trans a, b, hw.held.cfg ▸ c, d⟩
  · rintro u ⟨a, b, c, d⟩
    refine ⟨hw.trans a, b, hw.held.cfg ▸ c, ?_⟩
    rw [he, hw.held.cfg] at d
    exact d

theorem WorkEnds.mono {s : State} {I D D' : State → Prop} {r : Run} (h : WorkEnds s I D r) (hD : ∀ t, I t → D t → D' t) :
    WorkEnds s I D' r :=
  Run.Ends.mono h (fun _ ⟨a, b, c, d⟩ => ⟨a, b, c, hD _ c d⟩) (fun _ h => h) (fun _ h => h)

theorem WorkEnds.weaken {s : State} {I I' D D' : State → Prop} {r : Run} (h : WorkEnds s I D r) (hI : ∀ t, I t → I' t)
    (hD : ∀ t, I t → D t → D' t) : WorkEnds s I' D' r :=
  Run.Ends.mono h (fun _ ⟨a, b, c, d⟩ => ⟨a, b, hI _ c, hD _ c d⟩)
    (fun _ ⟨u, e, a, b, c⟩ => ⟨u, e, a, hI _ b, c⟩) (fun _ ⟨a, b, c⟩ => ⟨a, hI _ b, c⟩)

/-- A property of a state that only its buffer, its counters and RESULT decide. -/
def ScratchOnly (I : State → Prop) : Prop :=
  ∀ s t : State, SameBuffer s t → t.result = s.result → I s → I t

/-- What an abort can do (R165, R275): without `STOP_ON_ABORT` it ends at once; with it a stop follows. -/
theorem abortTransaction_ends {I : State → Prop} (hI : ScratchOnly I) (e : ErrInfo) (s : State)
    (he : e.FitsLimit s.cfg.waitLimit) (h : I s) : WorkEnds s I (fun _ => False) (abortTransaction e s) := by
  unfold abortTransaction
  cases hs : s.cfg.stopOnAbort with
  | false => exact ⟨s, e, .refl s, h, he, rfl⟩
  | true =>
    rw [if_pos rfl]
    have hk := busStop_ends { s with err := e.word }
    have key : ∀ t, ActionWork { s with err := e.word } t → t.result = s.result → BusWork s t ∧ I t := fun t hw hr =>
      ⟨((BusWork.refl s).of_labels s.tpc e.word s.rxLen s.idx).trans hw.toBusWork, hI s t ⟨hw.kept.rxbuf,
        hw.kept.rxLen, hw.kept.idx⟩ hr h⟩
    cases hb : busStop { s with err := e.word } with
    | completed t =>
      rw [hb] at hk
      obtain ⟨hw, hr, -⟩ := hk
      exact ⟨t, e, (key t hw hr).1, (key t hw hr).2, he, rfl⟩
    | timedOut t =>
      rw [hb] at hk
      obtain ⟨-, ht, hw, -⟩ := hk
      exact ⟨t, e, (key t hw (ht ▸ rfl)).1, (key t hw (ht ▸ rfl)).2, he, rfl⟩
    | hung t =>
      rw [hb] at hk
      obtain ⟨-, ht, hw, hl⟩ := hk
      exact ⟨(key t hw (ht ▸ rfl)).1, (key t hw (ht ▸ rfl)).2, hl, .inr ⟨e, he, hw.err⟩⟩

/-- What one step of the sequencer can do (R160), for an action of which only `D` is known beside its work. -/
theorem seqStep_ends {I D : State → Prop} (hI : ScratchOnly I) {kind : ErrKind} (hk : kind ≠ .none)
    (hk' : kind ≠ .busTimeout) (label : TLabel) (action : State → Waited) (s : State)
    (ha : (action { s with tpc := label }).Ends
      (fun t => ActionWork { s with tpc := label } t ∧ I t ∧ D t)
      (fun t => ActionWork { s with tpc := label } t ∧ I t ∧ ∃ n, s.cfg.waitLimit = .finite n)
      (fun t => ActionWork { s with tpc := label } t ∧ I t ∧ s.cfg.waitLimit = .inf)) :
    WorkEnds s I (fun t => D t ∧ ∀ c, label.expected = some c → t.code = c.byte) (seqStep kind label action s) := by
  have key : ∀ t, ActionWork { s with tpc := label } t → BusWork s t := fun t hw =>
    ((BusWork.refl s).of_labels label s.err s.rxLen s.idx).trans hw.toBusWork
  have abort : ∀ t e, ActionWork { s with tpc := label } t → I t → ErrInfo.FitsLimit e s.cfg.waitLimit → ∀ D',
      WorkEnds s I D' (abortTransaction e t) := fun t e hw hi he D' => by
    have hc : t.cfg = s.cfg := hw.held.cfg
    have hke := hw.err
    refine Run.Ends.mono (abortTransaction_ends hI e t (hc ▸ he) hi) ?_ ?_ ?_
    · rintro u ⟨-, -, -, h⟩
      exact h.elim
    · rintro u ⟨v, e', a, b, c, d⟩
      exact ⟨v, e', (key t hw).trans a, b, hc ▸ c, d⟩
    · rintro u ⟨a, b, c, d⟩
      rw [hc, hw.err] at d
      exact ⟨(key t hw).trans a, b, hc ▸ c, d⟩
  unfold seqStep
  cases hb : action { s with tpc := label } with
  | completed t =>
    rw [hb] at ha
    obtain ⟨hw, hi, hd⟩ := ha
    have htp : t.tpc = label := hw.tpc
    simp only [expectCode, htp]
    cases hx : label.expected with
    | none => exact ⟨key t hw, hw.err, hi, hd, by simp⟩
    | some c =>
      by_cases hcode : t.code = c.byte
      · simp only [hcode, if_true]
        exact ⟨key t hw, hw.err, hi, hd, by rintro c' ⟨⟩; exact hcode⟩
      · simp only [hcode, if_false]
        exact abort t _ hw hi ⟨hk, fun h => absurd h hk'⟩ _
  | timedOut t =>
    rw [hb] at ha
    obtain ⟨hw, hi, hn⟩ := ha
    exact abort t _ hw hi ⟨by simp [State.timeoutAt], fun _ => hn⟩ _
  | hung t =>
    rw [hb] at ha
    obtain ⟨hw, hi, hn⟩ := ha
    exact ⟨key t hw, hi, hn, .inl hw.err⟩

/-- A step whose action is a start, a send or a stop leaves the buffer and RESULT. -/
theorem seqStep_start {I : State → Prop} (hI : ScratchOnly I) {kind : ErrKind} (hk : kind ≠ .none)
    (hk' : kind ≠ .busTimeout) (label : TLabel) (s : State) (h : I s) :
    WorkEnds s I (fun t => t.result = s.result) (seqStep kind label busStart s) := by
  refine (seqStep_ends (D := fun t => t.result = s.result) hI hk hk' label busStart s ?_).mono fun t _ h => h.1
  have hb := busStart_ends { s with tpc := label }
  cases hw : busStart { s with tpc := label } <;> rw [hw] at hb
  · exact ⟨hb.1, hI s _ ⟨hb.1.kept.rxbuf, hb.1.kept.rxLen, hb.1.kept.idx⟩ hb.2.1 h, hb.2.1⟩
  · exact ⟨hb.2.1, hI s _ ⟨hb.2.1.kept.rxbuf, hb.2.1.kept.rxLen, hb.2.1.kept.idx⟩ (hb.1 ▸ rfl) h, hb.2.2⟩
  · exact ⟨hb.2.1, hI s _ ⟨hb.2.1.kept.rxbuf, hb.2.1.kept.rxLen, hb.2.1.kept.idx⟩ (hb.1 ▸ rfl) h, hb.2.2⟩

theorem seqStep_send {I : State → Prop} (hI : ScratchOnly I) {kind : ErrKind} (hk : kind ≠ .none)
    (hk' : kind ≠ .busTimeout) (label : TLabel) (b : Byte) (s : State) (h : I s) :
    WorkEnds s I (fun t => t.result = s.result) (seqStep kind label (busSend b) s) := by
  refine (seqStep_ends (D := fun t => t.result = s.result) hI hk hk' label (busSend b) s ?_).mono fun t _ h => h.1
  have hb := busSend_ends b { s with tpc := label }
  cases hw : busSend b { s with tpc := label } <;> rw [hw] at hb
  · exact ⟨hb.1, hI s _ ⟨hb.1.kept.rxbuf, hb.1.kept.rxLen, hb.1.kept.idx⟩ hb.2.1 h, hb.2.1⟩
  · exact ⟨hb.2.1, hI s _ ⟨hb.2.1.kept.rxbuf, hb.2.1.kept.rxLen, hb.2.1.kept.idx⟩ (hb.1 ▸ rfl) h, hb.2.2⟩
  · exact ⟨hb.2.1, hI s _ ⟨hb.2.1.kept.rxbuf, hb.2.1.kept.rxLen, hb.2.1.kept.idx⟩ (hb.1 ▸ rfl) h, hb.2.2⟩

theorem seqStep_stop {I : State → Prop} (hI : ScratchOnly I) {kind : ErrKind} (hk : kind ≠ .none)
    (hk' : kind ≠ .busTimeout) (label : TLabel) (s : State) (h : I s) :
    WorkEnds s I (fun t => t.result = s.result) (seqStep kind label busStop s) := by
  refine (seqStep_ends (D := fun t => t.result = s.result) hI hk hk' label busStop s ?_).mono fun t _ h => h.1
  have hb := busStop_ends { s with tpc := label }
  cases hw : busStop { s with tpc := label } <;> rw [hw] at hb
  · exact ⟨hb.1, hI s _ ⟨hb.1.kept.rxbuf, hb.1.kept.rxLen, hb.1.kept.idx⟩ hb.2.1 h, hb.2.1⟩
  · exact ⟨hb.2.2.1, hI s _ ⟨hb.2.2.1.kept.rxbuf, hb.2.2.1.kept.rxLen, hb.2.2.1.kept.idx⟩ (hb.2.1 ▸ rfl) h, hb.2.2.2⟩
  · exact ⟨hb.2.2.1, hI s _ ⟨hb.2.2.1.kept.rxbuf, hb.2.2.1.kept.rxLen, hb.2.2.1.kept.idx⟩ (hb.2.1 ▸ rfl) h, hb.2.2.2⟩

/-- What the addressing preamble can do. -/
theorem preamble_ends {I : State → Prop} (hI : ScratchOnly I) {kind : ErrKind} (hk : kind ≠ .none)
    (hk' : kind ≠ .busTimeout) (dev : DevAddr) (reg : Byte) (s : State) (h : I s) :
    WorkEnds s I (fun _ => True) (preamble kind dev reg s) := by
  refine (seqStep_start hI hk hk' _ s h).andThen fun t _ h _ => ?_
  refine (seqStep_send hI hk hk' _ _ t h).andThen fun t _ h _ => ?_
  exact (seqStep_send hI hk hk' _ _ t h).mono fun _ _ _ => trivial

/-- The end of a part that only writes labels and counters. -/
theorem WorkEnds.finish {s : State} {I D : State → Prop} (tp : TLabel) (n : Byte)
    (hI : I { s with tpc := tp, rxLen := n }) (hD : D { s with tpc := tp, rxLen := n }) :
    WorkEnds s I D (.done { s with tpc := tp, rxLen := n }) :=
  ⟨(BusWork.refl s).of_labels tp s.err n s.idx, rfl, hI, hD⟩

/-- What a write transaction can do (R162): it leaves the buffer, its counters and RESULT, whatever happens. -/
theorem memWrite_ends (dev : DevAddr) (reg v : Byte) (s : State) :
    WorkEnds s (fun t => SameBuffer s t ∧ t.result = s.result) (fun t => t.tpc = .t0) (memWrite dev reg v s) := by
  have hI : ScratchOnly fun t => SameBuffer s t ∧ t.result = s.result :=
    fun t u h hr ⟨h1, h2⟩ => ⟨h1.trans h, hr.trans h2⟩
  have h1 : ErrKind.protocolStatusMismatch ≠ .none := by decide
  have h2 : ErrKind.protocolStatusMismatch ≠ .busTimeout := by decide
  refine (preamble_ends hI h1 h2 dev reg s ⟨.refl s, rfl⟩).andThen fun t _ h _ => ?_
  refine (seqStep_send hI h1 h2 _ _ t h).andThen fun t _ h _ => ?_
  refine (seqStep_stop hI h1 h2 _ t h).andThen fun t _ h _ => ?_
  exact .finish (s := t) .t0 t.rxLen ⟨⟨h.1.rxbuf, h.1.rxLen, h.1.idx⟩, h.2⟩ rfl

/-! ### Read transactions -/

/-- What holds while a read of `count` bytes that began in `s₀` goes on: RX_LEN is 0 and the entries from `count` on are
untouched (R28, R29). -/
def Reading (s₀ : State) (count : Nat) (t : State) : Prop :=
  t.rxLen = 0#8 ∧ SameEntriesFrom count s₀ t

theorem Reading.scratchOnly (s₀ : State) (count : Nat) (k : Byte) :
    ScratchOnly fun t => Reading s₀ count t ∧ t.idx = k :=
  fun s t h _ ⟨⟨h1, h2⟩, h3⟩ =>
    ⟨⟨h.rxLen.trans h1, fun a ha => by rw [h.rxbuf]; exact h2 a ha⟩, h.idx.trans h3⟩

/-- What a receive step can do: one byte is stored at IDX, IDX moves on (R161). -/
theorem recvStep_ends {kind : ErrKind} (hk : kind ≠ .none) (hk' : kind ≠ .busTimeout) (label : TLabel) (ack : Bool)
    {s₀ s : State} {count : Nat} (hc : count ≤ 255) (h : Reading s₀ count s) (hi : s.idx.toNat < count) :
    WorkEnds s (Reading s₀ count) (fun t => t.idx = s.idx + 1#8) (recvStep kind label ack s) := by
  have hI := Reading.scratchOnly s₀ count s.idx
  have step : WorkEnds s (fun t => Reading s₀ count t ∧ t.idx = s.idx) (fun _ => True)
      (seqStep kind label (busRecv ack) s) := by
    refine (seqStep_ends (D := fun _ => True) (I := fun t => Reading s₀ count t ∧ t.idx = s.idx) hI hk hk' label
      (busRecv ack) s ?_).mono fun _ _ _ => trivial
    have hb := busRecv_ends ack { s with tpc := label }
    have key : ∀ t, ActionWork { s with tpc := label } t → Reading s₀ count t ∧ t.idx = s.idx := fun t hw =>
      ⟨⟨hw.kept.rxLen.trans h.1, fun a ha => by rw [hw.kept.rxbuf]; exact h.2 a ha⟩, hw.kept.idx⟩
    cases hw : busRecv ack { s with tpc := label } <;> rw [hw] at hb
    · exact ⟨hb.1, key _ hb.1, trivial⟩
    · exact ⟨hb.2.1, key _ hb.2.1, hb.2.2⟩
    · exact ⟨hb.2.1, key _ hb.2.1, hb.2.2⟩
  refine Run.Ends.andThen (D' := fun t => BusWork s t ∧ t.err = s.err ∧ Reading s₀ count t ∧ t.idx = s.idx + 1#8)
    (step.weaken (I' := Reading s₀ count) (D' := fun t => t.idx = s.idx) (fun _ h => h.1) (fun _ h _ => h.2)) ?_
  rintro t ⟨hw, he, ⟨r1, r2⟩, hx⟩
  refine ⟨hw.trans ⟨by constructor <;> rfl, by constructor <;> rfl, rfl, rfl, rfl, rfl, id, ⟨[], by simp⟩, id, id,
    fun hb => Memory.wf_write hb _ ?_⟩, he, ⟨r1, fun a ha => ?_⟩, ?_⟩
  · rw [hx]
    show s.idx.toNat < 255
    omega
  · show (t.rxbuf.write t.idx.toNat t.data).read a = _
    rw [Memory.read_write_other _ _ (by rw [hx]; omega)]
    exact r2 a ha
  · show t.idx + 1#8 = _
    rw [hx]

/-- What the loop over T7 can do. -/
theorem recvAcked_ends {kind : ErrKind} (hk : kind ≠ .none) (hk' : kind ≠ .busTimeout) {s₀ : State} {count : Nat}
    (hc : count ≤ 255) : ∀ (n : Nat) {s : State}, Reading s₀ count s → s.idx.toNat + n < count →
      WorkEnds s (Reading s₀ count) (fun t => t.idx.toNat = s.idx.toNat + n) (recvAcked kind n s)
  | 0, s, h, _ => ⟨.refl s, rfl, h, rfl⟩
  | n + 1, s, h, hi => by
    refine (recvStep_ends hk hk' .t7 true hc h (by omega)).andThen fun t _ hr hx => ?_
    have hx' : t.idx.toNat = s.idx.toNat + 1 := by
      rw [hx, BitVec.toNat_add, BitVec.toNat_ofNat]
      omega
    exact (recvAcked_ends hk hk' hc n hr (by omega)).mono fun u _ h => by omega

/-- What a read transaction can do (R164): done, it has read `count` bytes; failed or hanging, RX_LEN is 0. -/
theorem memRead_ends {kind : ErrKind} (hk : kind ≠ .none) (hk' : kind ≠ .busTimeout) (dev : DevAddr)
    (reg count : Byte) (hc : count ≠ 0#8) (s : State) :
    (memRead kind dev reg count s).Ends
      (fun t => BusWork s t ∧ t.err = s.err ∧ SameEntriesFrom count.toNat s t ∧ t.rxLen = count ∧ t.idx = count
        ∧ t.tpc = .t0)
      (fun t => ∃ u e, BusWork s u ∧ Reading s count.toNat u ∧ ErrInfo.FitsLimit e s.cfg.waitLimit ∧ t = u.failWith e)
      (fun t => BusWork s t ∧ Reading s count.toNat t ∧ s.cfg.waitLimit = .inf
        ∧ (t.err = s.err ∨ ∃ e, ErrInfo.FitsLimit e s.cfg.waitLimit ∧ t.err = e.word)) := by
  have hpos : 0 < count.toNat := Nat.pos_of_ne_zero fun h => hc (by apply BitVec.eq_of_toNat_eq; simpa using h)
  have hle : count.toNat ≤ 255 := by have := count.isLt; omega
  have hI := Reading.scratchOnly s count.toNat
  have body : WorkEnds { s with rxLen := 0#8, idx := 0#8 } (Reading s count.toNat) (fun t => t.idx = count)
      ((preamble kind dev reg { s with rxLen := 0#8, idx := 0#8 }).andThen fun s =>
        (seqStep kind .t5 busStart s).andThen fun s =>
        (seqStep kind .t6 (busSend (slaR dev)) s).andThen fun s =>
        (recvAcked kind (count.toNat - 1) s).andThen fun s =>
        (recvStep kind .t8 false s).andThen fun s => seqStep kind .t9 busStop s) := by
    refine ((preamble_ends (hI 0#8) hk hk' dev reg { s with rxLen := 0#8, idx := 0#8 } ⟨⟨rfl, fun _ _ => rfl⟩, rfl⟩).weaken
      (D' := fun t => t.idx = 0#8) (fun _ h => h.1) (fun _ h _ => h.2)).andThen fun t _ h0 hx => ?_
    refine ((seqStep_start (hI 0#8) hk hk' _ t ⟨h0, hx⟩).weaken (D' := fun t => t.idx = 0#8) (fun _ h => h.1)
      (fun _ h _ => h.2)).andThen fun t _ h0 hx => ?_
    refine ((seqStep_send (hI 0#8) hk hk' _ _ t ⟨h0, hx⟩).weaken (D' := fun t => t.idx = 0#8) (fun _ h => h.1)
      (fun _ h _ => h.2)).andThen fun t _ h0 hx => ?_
    have hx0 : t.idx.toNat = 0 := by rw [hx]; rfl
    refine (recvAcked_ends hk hk' hle (count.toNat - 1) h0 (by omega)).andThen fun u _ hu hux => ?_
    refine (recvStep_ends hk hk' .t8 false hle hu (by omega)).andThen fun v _ hv hvx => ?_
    have hvc : v.idx = count := by
      apply BitVec.eq_of_toNat_eq
      rw [hvx, BitVec.toNat_add, BitVec.toNat_ofNat]
      omega
    exact (seqStep_stop (hI count) hk hk' _ v ⟨hv, hvc⟩).weaken (fun _ h => h.1) (fun _ h _ => h.2)
  have hs0 : BusWork s { s with rxLen := 0#8, idx := 0#8 } := (BusWork.refl s).of_labels s.tpc s.err 0#8 0#8
  have hall := Run.Ends.andThen (k := fun s => .done { s with rxLen := count, tpc := .t0 })
    (D' := fun t => BusWork s t ∧ t.err = s.err ∧ SameEntriesFrom count.toNat s t ∧ t.rxLen = count ∧ t.idx = count
        ∧ t.tpc = .t0) body fun t ⟨hw, he, hr, hx⟩ =>
      ⟨(hs0.trans hw).of_labels .t0 t.err count t.idx, he, hr.2, rfl, hx, rfl⟩
  have assoc : ∀ (r : Run) (f g : State → Run), (r.andThen f).andThen g = r.andThen fun s => (f s).andThen g := by
    intro r f g
    cases r <;> rfl
  simp only [assoc] at hall
  refine Run.Ends.mono hall (fun _ h => h) ?_ ?_
  · rintro t ⟨u, e, hw, hr⟩
    exact ⟨u, e, hs0.trans hw, hr⟩
  · rintro t ⟨hw, hr⟩
    exact ⟨hs0.trans hw, hr⟩

end Sys2Proof.Machine
end

