-- ==== Sys2Proof/Laws/Sensor.lean ====
section
/-! SUPPORT. What the steps of the sensor engine and the composite commands can do: `StepEnds` says it once, and every step
of R250's table has it. -/

namespace Sys2Proof.Machine

open Sys2Proof.Config

/-- What any sequence of sensor steps keeps: it may write everything `BusWork` may write, SPC, and the sensor registers; it
never clears `CTRL.EN` or `CAL_VALID`. -/
structure BodyWork (s t : State) : Prop where
  held : SameHeld s t
  ok : t.ok = s.ok
  fail : t.fail = s.fail
  busy : t.busy = s.busy
  en : s.en = true → t.en = true
  calValid : s.calValid = true → t.calValid = true
  hist : ∃ events, t.hist = s.hist ++ events
  registers : s.RegisterInv → t.RegisterInv
  ownership : s.OwnershipInv → t.OwnershipInv
  buffer : s.BufferInv → t.BufferInv

theorem BusWork.body {s t : State} (h : BusWork s t) : BodyWork s t :=
  ⟨h.held, h.ok, h.fail, h.busy, h.en, fun k => h.sensor.calValid.trans k, h.hist, h.registers, h.ownership, h.buffer⟩

theorem BodyWork.refl (s : State) : BodyWork s s := (BusWork.refl s).body

theorem BodyWork.trans {s t u : State} (h : BodyWork s t) (k : BodyWork t u) : BodyWork s u where
  held := h.held.trans k.held
  ok := k.ok.trans h.ok
  fail := k.fail.trans h.fail
  busy := k.busy.trans h.busy
  en := k.en ∘ h.en
  calValid := k.calValid ∘ h.calValid
  hist := by
    obtain ⟨a, ha⟩ := h.hist
    obtain ⟨b, hb⟩ := k.hist
    exact ⟨a ++ b, by rw [hb, ha, List.append_assoc]⟩
  registers := k.registers ∘ h.registers
  ownership := k.ownership ∘ h.ownership
  buffer := k.buffer ∘ h.buffer

/-- A write of sensor registers alone. -/
theorem BodyWork.of_sensor {s t : State} (held : SameHeld s t) (bus : SameBus s t) (buffer : SameBuffer s t)
    (ok : t.ok = s.ok) (fail : t.fail = s.fail) (busy : t.busy = s.busy)
    (calValid : s.calValid = true → t.calValid = true) : BodyWork s t where
  held := held
  ok := ok
  fail := fail
  busy := busy
  en := fun h => (congrArg (fun c => c.getLsbD 2) bus.ctrl).trans h
  calValid := calValid
  hist := ⟨[], by simpa using bus.hist⟩
  registers := by
    rintro ⟨h1, h2, c, h3⟩
    exact ⟨bus.ctrl ▸ h1, bus.status ▸ h2, c, (congrArg (fun b => b &&& 0xF8#8) bus.status).trans h3⟩
  ownership := by
    rintro ⟨h1, h2⟩
    refine ⟨?_, ?_⟩
    · rw [State.owned, bus.phase, bus.hist]
      exact h1
    · rw [bus.dir, bus.phase]
      exact h2
  buffer := fun h => by
    show t.rxbuf.wf = true
    rw [buffer.rxbuf]
    exact h

/-- Everything a part of a command's body that starts in `s` can do, with `I` kept throughout and `D` at the end when it
is done: success with ERR and TPC as they were, a failure recorded once, or a hang (R255, R281). -/
def StepEnds (s : State) (I D : State → Prop) (r : Run) : Prop :=
  r.Ends
    (fun t => BodyWork s t ∧ t.err = s.err ∧ t.tpc = s.tpc ∧ I t ∧ D t)
    (fun t => ∃ u e, BodyWork s u ∧ I u ∧ ErrInfo.FitsLimit e s.cfg.waitLimit ∧ t = u.failWith e)
    (fun t => BodyWork s t ∧ I t ∧ s.cfg.waitLimit = .inf
      ∧ (t.err = s.err ∨ ∃ e, ErrInfo.FitsLimit e s.cfg.waitLimit ∧ t.err = e.word))

/-- The rule of sequencing. -/
theorem StepEnds.andThen {s : State} {I D D' : State → Prop} {r : Run} {k : State → Run} (h : StepEnds s I D r)
    (hk : ∀ t, BodyWork s t → t.tpc = s.tpc → I t → D t → StepEnds t I D' (k t)) : StepEnds s I D' (r.andThen k) := by
  refine Run.Ends.andThen h fun t ⟨hw, he, ht, hI, hD⟩ => ?_
  refine (hk t hw ht hI hD).mono ?_ ?_ ?_
  · rintro u ⟨a, b, c, d⟩
    exact ⟨hw.trans a, b.trans he, c.trans ht, d⟩
  · rintro u ⟨v, e, a, b, c, d⟩
    exact ⟨v, e, hw.trans a, b, hw.held.cfg ▸ c, d⟩
  · rintro u ⟨a, b, c, d⟩
    refine ⟨hw.trans a, b, hw.held.cfg ▸ c, ?_⟩
    rw [he, hw.held.cfg] at d
    exact d

theorem StepEnds.weaken {s : State} {I I' D D' : State → Prop} {r : Run} (h : StepEnds s I D r) (hI : ∀ t, I t → I' t)
    (hD : ∀ t, I t → D t → D' t) : StepEnds s I' D' r :=
  Run.Ends.mono h (fun _ ⟨a, b, c, d, e⟩ => ⟨a, b, c, hI _ d, hD _ d e⟩)
    (fun _ ⟨u, e, a, b, c⟩ => ⟨u, e, a, hI _ b, c⟩) (fun _ ⟨a, b, c⟩ => ⟨a, hI _ b, c⟩)

/-- A part that only writes sensor registers and SPC. -/
theorem StepEnds.of_done {s t : State} {I D : State → Prop} (h : BodyWork s t) (he : t.err = s.err) (ht : t.tpc = s.tpc)
    (hI : I t) (hD : D t) : StepEnds s I D (.done t) :=
  ⟨h, he, ht, hI, hD⟩

/-- The counters of a read: RX_LEN is 0, or the count that IDX has reached (R29, R30). -/
def Counted (t : State) : Prop := t.rxLen = 0#8 ∨ t.rxLen = t.idx

/-- The trigger write inside a step, begun in a state `s` with `tpc = T0`. -/
theorem memWrite_step (dev : DevAddr) (reg v : Byte) {s : State} (ht : s.tpc = .t0) :
    StepEnds s (fun t => SameSensor s t ∧ t.spc = s.spc ∧ SameBuffer s t ∧ t.result = s.result) (fun _ => True)
      (memWrite dev reg v s) := by
  refine Run.Ends.mono (memWrite_ends dev reg v s) ?_ ?_ ?_
  · rintro t ⟨hw, he, ⟨h1, h2⟩, h3⟩
    exact ⟨hw.body, he, h3.trans ht.symm, ⟨hw.sensor, hw.spc, h1, h2⟩, trivial⟩
  · rintro t ⟨u, e, hw, ⟨h1, h2⟩, he, hu⟩
    exact ⟨u, e, hw.body, ⟨hw.sensor, hw.spc, h1, h2⟩, he, hu⟩
  · rintro t ⟨hw, ⟨h1, h2⟩, he⟩
    exact ⟨hw.body, ⟨hw.sensor, hw.spc, h1, h2⟩, he⟩

/-- The same part in another state that differs in sensor registers only. -/
theorem StepEnds.from_sensor {s s' : State} {I D : State → Prop} {r : Run} (hb : BodyWork s s') (he : s'.err = s.err)
    (ht : s'.tpc = s.tpc) (h : StepEnds s' I D r) : StepEnds s I D r := by
  refine Run.Ends.mono h ?_ ?_ ?_
  · rintro t ⟨a, b, c, d⟩
    exact ⟨hb.trans a, b.trans he, c.trans ht, d⟩
  · rintro t ⟨u, e, a, b, c, d⟩
    exact ⟨u, e, hb.trans a, b, hb.held.cfg ▸ c, d⟩
  · rintro t ⟨a, b, c, d⟩
    rw [he, hb.held.cfg] at d
    exact ⟨hb.trans a, b, hb.held.cfg ▸ c, d⟩

/-- The LDCAL step (R190): the coefficients come all at once, from the bytes read, or none changes. -/
theorem ldcalStep_ends (dev : DevAddr) (s : State) :
    (ldcalStep dev s).Ends
      (fun t => BodyWork s t ∧ t.err = s.err ∧ t.tpc = .t0 ∧ t.spc = s.spc ∧ SameEntriesFrom 24 s t ∧ Counted t
        ∧ t.rxLen = 24#8 ∧ t.calValid = true ∧ t.cal = Calib.ofBytes t.rxbuf.read
        ∧ SameSensor { s with cal := t.cal, calValid := t.calValid } t)
      (fun t => ∃ u e, BodyWork s u ∧ (SameSensor s u ∧ SameEntriesFrom 24 s u ∧ u.rxLen = 0#8)
        ∧ ErrInfo.FitsLimit e s.cfg.waitLimit ∧ t = u.failWith e)
      (fun t => BodyWork s t ∧ (SameSensor s t ∧ SameEntriesFrom 24 s t ∧ t.rxLen = 0#8) ∧ s.cfg.waitLimit = .inf
        ∧ (t.err = s.err ∨ ∃ e, ErrInfo.FitsLimit e s.cfg.waitLimit ∧ t.err = e.word)) := by
  refine Run.Ends.andThen (Run.Ends.mono (memRead_ends (kind := .calibrationUnavailable) (by decide) (by decide) dev
    calReg calLen (by decide) s) (fun t h => h) ?_ ?_) ?_
  · rintro t ⟨u, e, hw, ⟨h1, h2⟩, he, hu⟩
    exact ⟨u, e, hw.body, ⟨hw.sensor, h2, h1⟩, he, hu⟩
  · rintro t ⟨hw, ⟨h1, h2⟩, he⟩
    exact ⟨hw.body, ⟨hw.sensor, h2, h1⟩, he⟩
  · rintro t ⟨hw, he, hs, h1, h2, h3⟩
    refine ⟨hw.body.trans (.of_sensor (by constructor <;> rfl) (by constructor <;> rfl) (by constructor <;> rfl) rfl rfl
      rfl fun _ => rfl), he, h3, hw.spc, hs, .inr (h1.trans h2.symm), h1, rfl, rfl, ?_⟩
    obtain ⟨k1, k2, k3, k4, k5, k6, k7, k8, k9, k10, k11, k12, k13, k14, k15, k16, k17⟩ := hw.sensor
    exact ⟨rfl, rfl, k3, k4, k5, k6, k7, k8, k9, k10, k11, k12, k13, k14, k15, k16, k17⟩

/-- The REQM step (R192): the cycle flags are cleared first, whatever happens, and `MEAS_OK` is set at success. -/
theorem reqmStep_ends (dev : DevAddr) {s : State} (ht : s.tpc = .t0) :
    (reqmStep dev s).Ends
      (fun t => BodyWork s t ∧ t.err = s.err ∧ t.tpc = .t0 ∧ t.spc = s.spc ∧ SameBuffer s t ∧ t.result = s.result
        ∧ SameSensor { s with measOk := true, rawTValid := false, rawPValid := false, tFineValid := false } t)
      (fun t => ∃ u e, BodyWork s u ∧ (SameBuffer s u ∧ u.result = s.result
          ∧ SameSensor { s with measOk := false, rawTValid := false, rawPValid := false, tFineValid := false } u)
        ∧ ErrInfo.FitsLimit e s.cfg.waitLimit ∧ t = u.failWith e)
      (fun t => BodyWork s t ∧ (SameBuffer s t ∧ t.result = s.result
          ∧ SameSensor { s with measOk := false, rawTValid := false, rawPValid := false, tFineValid := false } t)
        ∧ s.cfg.waitLimit = .inf
        ∧ (t.err = s.err ∨ ∃ e, ErrInfo.FitsLimit e s.cfg.waitLimit ∧ t.err = e.word)) := by
  have hb : BodyWork s { s with measOk := false, rawTValid := false, rawPValid := false, tFineValid := false } :=
    .of_sensor (by constructor <;> rfl) (by constructor <;> rfl) (by constructor <;> rfl) rfl rfl rfl id
  have hw := StepEnds.from_sensor hb rfl rfl (memWrite_step dev measReg measVal
    (s := { s with measOk := false, rawTValid := false, rawPValid := false, tFineValid := false }) ht)
  refine Run.Ends.andThen (Run.Ends.mono hw (fun t h => h) ?_ ?_) ?_
  · rintro t ⟨u, e, h1, ⟨h2, -, h3, h4⟩, he⟩
    exact ⟨u, e, h1, ⟨⟨h3.rxbuf, h3.rxLen, h3.idx⟩, h4, h2⟩, he⟩
  · rintro t ⟨h1, ⟨h2, -, h3, h4⟩, he⟩
    exact ⟨h1, ⟨⟨h3.rxbuf, h3.rxLen, h3.idx⟩, h4, h2⟩, he⟩
  · rintro t ⟨h1, he, h3, ⟨h2, hs, h4, h5⟩, -⟩
    refine ⟨h1.trans (.of_sensor (by constructor <;> rfl) (by constructor <;> rfl) (by constructor <;> rfl) rfl rfl
      rfl id), he, h3.trans ht, hs, ⟨h4.rxbuf, h4.rxLen, h4.idx⟩, h5, ?_⟩
    obtain ⟨k1, k2, k3, k4, k5, k6, k7, k8, k9, k10, k11, k12, k13, k14, k15, k16, k17⟩ := h2
    exact ⟨k1, k2, rfl, k4, k5, k6, k7, k8, k9, k10, k11, k12, k13, k14, k15, k16, k17⟩

/-- The RDRT step (R193): `RAWT_VALID` is cleared first, whatever happens, and set with the code at success. -/
theorem rdrtStep_ends (dev : DevAddr) (s : State) :
    (rdrtStep dev s).Ends
      (fun t => BodyWork s t ∧ t.err = s.err ∧ t.tpc = .t0 ∧ t.spc = s.spc ∧ SameEntriesFrom 3 s t ∧ Counted t
        ∧ t.rxLen = 3#8 ∧ t.rawTValid = true ∧ SameSensor { s with rawT := t.rawT, rawTValid := t.rawTValid } t)
      (fun t => ∃ u e, BodyWork s u ∧ (SameEntriesFrom 3 s u ∧ u.rxLen = 0#8 ∧ SameSensor { s with rawTValid := false } u)
        ∧ ErrInfo.FitsLimit e s.cfg.waitLimit ∧ t = u.failWith e)
      (fun t => BodyWork s t ∧ (SameEntriesFrom 3 s t ∧ t.rxLen = 0#8 ∧ SameSensor { s with rawTValid := false } t)
        ∧ s.cfg.waitLimit = .inf
        ∧ (t.err = s.err ∨ ∃ e, ErrInfo.FitsLimit e s.cfg.waitLimit ∧ t.err = e.word)) := by
  have hb : BodyWork s { s with rawTValid := false } :=
    .of_sensor (by constructor <;> rfl) (by constructor <;> rfl) (by constructor <;> rfl) rfl rfl rfl id
  refine Run.Ends.andThen (Run.Ends.mono (memRead_ends (kind := .protocolStatusMismatch) (by decide) (by decide) dev
    tempReg rawLen (by decide) { s with rawTValid := false }) (fun t h => h) ?_ ?_) ?_
  · rintro t ⟨u, e, hw, ⟨h1, h2⟩, he, hu⟩
    exact ⟨u, e, hb.trans hw.body, ⟨h2, h1, hw.sensor⟩, he, hu⟩
  · rintro t ⟨hw, ⟨h1, h2⟩, he⟩
    exact ⟨hb.trans hw.body, ⟨h2, h1, hw.sensor⟩, he⟩
  · rintro t ⟨hw, he, hs, h1, h2, h3⟩
    refine ⟨(hb.trans hw.body).trans (.of_sensor (by constructor <;> rfl) (by constructor <;> rfl)
      (by constructor <;> rfl) rfl rfl rfl id), he, h3, hw.spc, hs, .inr (h1.trans h2.symm), h1, rfl, ?_⟩
    obtain ⟨k1, k2, k3, k4, k5, k6, k7, k8, k9, k10, k11, k12, k13, k14, k15, k16, k17⟩ := hw.sensor
    exact ⟨k1, k2, k3, rfl, k5, k6, rfl, k8, k9, k10, k11, k12, k13, k14, k15, k16, k17⟩

/-- The RDRP step (R194). -/
theorem rdrpStep_ends (dev : DevAddr) (s : State) :
    (rdrpStep dev s).Ends
      (fun t => BodyWork s t ∧ t.err = s.err ∧ t.tpc = .t0 ∧ t.spc = s.spc ∧ SameEntriesFrom 3 s t ∧ Counted t
        ∧ t.rxLen = 3#8 ∧ t.rawPValid = true ∧ SameSensor { s with rawP := t.rawP, rawPValid := t.rawPValid } t)
      (fun t => ∃ u e, BodyWork s u ∧ (SameEntriesFrom 3 s u ∧ u.rxLen = 0#8 ∧ SameSensor { s with rawPValid := false } u)
        ∧ ErrInfo.FitsLimit e s.cfg.waitLimit ∧ t = u.failWith e)
      (fun t => BodyWork s t ∧ (SameEntriesFrom 3 s t ∧ t.rxLen = 0#8 ∧ SameSensor { s with rawPValid := false } t)
        ∧ s.cfg.waitLimit = .inf
        ∧ (t.err = s.err ∨ ∃ e, ErrInfo.FitsLimit e s.cfg.waitLimit ∧ t.err = e.word)) := by
  have hb : BodyWork s { s with rawPValid := false } :=
    .of_sensor (by constructor <;> rfl) (by constructor <;> rfl) (by constructor <;> rfl) rfl rfl rfl id
  refine Run.Ends.andThen (Run.Ends.mono (memRead_ends (kind := .protocolStatusMismatch) (by decide) (by decide) dev
    pressReg rawLen (by decide) { s with rawPValid := false }) (fun t h => h) ?_ ?_) ?_
  · rintro t ⟨u, e, hw, ⟨h1, h2⟩, he, hu⟩
    exact ⟨u, e, hb.trans hw.body, ⟨h2, h1, hw.sensor⟩, he, hu⟩
  · rintro t ⟨hw, ⟨h1, h2⟩, he⟩
    exact ⟨hb.trans hw.body, ⟨h2, h1, hw.sensor⟩, he⟩
  · rintro t ⟨hw, he, hs, h1, h2, h3⟩
    refine ⟨(hb.trans hw.body).trans (.of_sensor (by constructor <;> rfl) (by constructor <;> rfl)
      (by constructor <;> rfl) rfl rfl rfl id), he, h3, hw.spc, hs, .inr (h1.trans h2.symm), h1, rfl, ?_⟩
    obtain ⟨k1, k2, k3, k4, k5, k6, k7, k8, k9, k10, k11, k12, k13, k14, k15, k16, k17⟩ := hw.sensor
    exact ⟨k1, k2, k3, k4, rfl, k6, k7, rfl, k9, k10, k11, k12, k13, k14, k15, k16, k17⟩

end Sys2Proof.Machine
end

