-- ==== Sys2Proof/Laws/Plan.lean ====
section
/-! SUPPORT. The machine against the step tables written as data (`play` of Safety): `Plays` says it once for every part of
a command, and every step, transaction and sensor step has it. -/

namespace Sys2Proof.Machine

open Sys2Proof.Config

/-! ### One action -/

@[simp] theorem State.busView_owned (s : State) : s.busView.owned = s.owned := by
  unfold State.busView BusView.owned State.owned
  cases s.phase <;> rfl

/-- The bits of a record (R36). -/
theorem ErrInfo.word_eq_append (e : ErrInfo) :
    e.word = e.spc.code ++ e.tpc.code ++ e.got ++ e.expected ++ 0#1 ++ e.state.code ++ e.kind.code := by
  obtain ⟨kind, st, ex, got, tp, sp⟩ := e
  unfold ErrInfo.word
  apply BitVec.eq_of_getLsbD_eq
  intro i hi
  change _ = BitVec.getLsbD (w := 4 + 4 + 8 + 8 + 1 + 3 + 4) _ i
  simp only [BitVec.getLsbD_append]
  interval_cases i <;> simp

/-- If the script's next reply is one of the action's outcome set, the action has taken it. -/
def Took (k : PlanStep) (s : State) (r : Reply) (t : State) : Prop :=
  ∀ x xs, s.answers = x :: xs → (x = .never ∨ (k.action.outcome s.owned x).isSome = true) → x = r ∧ t.answers = xs

/-- An action has done what the data of its step say. -/
def Acted (k : PlanStep) (s : State) : Waited → Prop
  | .completed t => ActionWork s t ∧ ∃ r e c, r ≠ .never ∧ k.action.outcome s.owned r = some (e, c)
      ∧ t.hist = s.hist ++ [e] ∧ t.busView = k.answered e c ∧ Took k s r t
  | .timedOut t => ActionWork s t ∧ t.hist = s.hist ∧ t.busView = k.triggered s.busView ∧ Took k s .never t
      ∧ ∃ n, s.cfg.waitLimit = .finite n
  | .hung t => ActionWork s t ∧ t.hist = s.hist ∧ t.busView = k.triggered s.busView ∧ Took k s .never t
      ∧ s.cfg.waitLimit = .inf

theorem State.busView_asked (s : State) (c : Byte) :
    (s.trigger c).asked.busView = { s.busView with ctrl := c, code := 0xF8#8 } := by
  simp [State.busView, State.trigger, State.asked, State.code, StatusCode.byte]

theorem State.busView_complete (s : State) (c : StatusCode) (p : Phase) (d : Dir) (e : BusEvent) :
    (s.complete c p d e).busView = { phase := p.code, ctrl := s.ctrl ||| 0x80#8, code := c.byte } := by
  simp [State.busView, State.complete, State.code]

theorem Reply.toStart_inj {x r : Reply} {z : StartReply} (hx : Reply.toStart x = some z)
    (hr : Reply.toStart r = some z) : x = r := by
  cases x <;> cases hx <;> cases r <;> first | cases hr; done | (cases hr; rfl)

theorem Reply.toSend_inj {x r : Reply} {z : SendReply} (hx : Reply.toSend x = some z)
    (hr : Reply.toSend r = some z) : x = r := by
  cases x <;> cases hx <;> cases r <;> first | cases hr; done | (cases hr; rfl)

theorem Reply.toRecv_inj {x r : Reply} {z : RecvReply} (hx : Reply.toRecv x = some z)
    (hr : Reply.toRecv r = some z) : x = r := by
  cases x <;> cases hx <;> cases r <;> first | cases hr; done | (cases hr; rfl)

theorem Reply.toStop_inj {x r : Reply} {z : StopReply} (hx : Reply.toStop x = some z)
    (hr : Reply.toStop r = some z) : x = r := by
  cases x <;> cases hx <;> cases r <;> first | cases hr; done | (cases hr; rfl)

theorem admitsStart {owned : Bool} {x : Reply}
    (h : x = .never ∨ (PlanAction.outcome owned .start x).isSome = true) : (Reply.toStart x).isSome = true := by
  cases x <;> first | rfl | simp [PlanAction.outcome] at h

theorem admitsSend {owned : Bool} {b a n : Byte} {x : Reply}
    (h : x = .never ∨ (PlanAction.outcome owned (.send b a n) x).isSome = true) : (Reply.toSend x).isSome = true := by
  cases x <;> first | rfl | simp [PlanAction.outcome] at h

theorem admitsRecv {owned : Bool} {ack : Bool} {x : Reply}
    (h : x = .never ∨ (PlanAction.outcome owned (.recv ack) x).isSome = true) : (Reply.toRecv x).isSome = true := by
  cases x <;> first | rfl | simp [PlanAction.outcome] at h

theorem admitsStop {owned : Bool} {x : Reply}
    (h : x = .never ∨ (PlanAction.outcome owned .stop x).isSome = true) : (Reply.toStop x).isSome = true := by
  cases x <;> first | rfl | simp [PlanAction.outcome] at h

/-- How an action takes the script's next reply: `f` reads a reply as an outcome `y` of the action. -/
theorem took_of {α : Type} {k : PlanStep} {s t : State} {r : Reply} {f : Reply → Option α} {y : α}
    (hinj : ∀ {x r : Reply} {z : α}, f x = some z → f r = some z → x = r)
    (hadm : ∀ x, x = .never ∨ (k.action.outcome s.owned x).isSome = true → (f x).isSome = true)
    (hf : ∀ x xs z, s.answers = x :: xs → f x = some z → y = z) (hr : f r = some y)
    (ht : t.answers = s.answers.tail) : Took k s r t := by
  intro x xs hx ha
  obtain ⟨z, hz⟩ := Option.isSome_iff_exists.mp (hadm x ha)
  exact ⟨hinj hz (hf x xs z hx hz ▸ hr), by rw [ht, hx]; rfl⟩

/-- A wait that is not answered, after the trigger of the step's action. -/
theorem acted_unanswered {k : PlanStep} {s t : State} (hw : ActionWork s t) (hh : t.hist = s.hist)
    (hb : t.busView = k.triggered s.busView) (ht : Took k s .never t) : Acted k s t.unanswered := by
  have hc := hw.held.cfg
  cases h : t.cfg.waitLimit with
  | inf =>
    simp only [State.unanswered, h]
    exact ⟨hw, hh, hb, ht, hc ▸ h⟩
  | finite n =>
    simp only [State.unanswered, h]
    exact ⟨hw, hh, hb, ht, n, hc ▸ h⟩

/-- What a start does is what R133 says in numbers. -/
theorem busStart_acted {k : PlanStep} (hk : k.action = .start) (hs : k.state = 1#3) (s : State) :
    Acted k s (busStart s) := by
  have took : ∀ (r : Reply) (t : State), t.answers = s.answers.tail → Reply.toStart r = some s.startReply → Took k s r t :=
    fun r t ht hr => took_of Reply.toStart_inj (fun x ha => admitsStart (hk ▸ ha))
      (fun x xs z hx hz => State.startReply_of hx hz) hr ht
  have ends := busStart_ends s
  cases h : s.startReply with
  | done =>
    simp only [busStart, h, Waited.Ends] at ends ⊢
    refine ⟨ends.1, .done, startEvent s.owned, (startCode s.owned).byte, by simp, ?_, rfl, ?_, took _ _ rfl (by rw [h]; rfl)⟩
    · rw [hk]
      cases s.owned <;> rfl
    · rw [State.busView_complete]
      cases s.owned <;> simp [PlanStep.answered, hk, hs, startEvent, PlanAction.trigger, State.asked, State.trigger,
        Phase.code]
  | busErr =>
    simp only [busStart, h, Waited.Ends] at ends ⊢
    refine ⟨ends.1, .busErr, .busErr, 0x00#8, by simp, by rw [hk]; rfl, rfl, ?_, took _ _ rfl (by rw [h]; rfl)⟩
    rw [State.busView_complete]
    simp [PlanStep.answered, hk, PlanAction.trigger, State.asked, State.trigger, Phase.code, StatusCode.byte]
  | never =>
    simp only [busStart, h]
    refine acted_unanswered (.of_trigger s s.data (by decide) (by decide)) rfl ?_ (took _ _ rfl (by rw [h]; rfl))
    rw [State.busView_asked]
    simp [PlanStep.triggered, hk, PlanAction.trigger]

/-- What a send does is what R136 says in numbers: the codes are those of an address byte after a start, else those of a
data byte. -/
theorem busSend_acted {k : PlanStep} {b a n : Byte} (hk : k.action = .send b a n) (s : State)
    (hp : (s.phase = .started ∧ k.state = 2#3 ∧ a = (addrCode (dirOfAddr b) true).byte
        ∧ n = (addrCode (dirOfAddr b) false).byte)
      ∨ (s.phase ≠ .started ∧ k.state = 3#3 ∧ a = 0x28#8 ∧ n = 0x30#8)) :
    Acted k s (busSend b s) := by
  have took : ∀ (r : Reply) (t : State), t.answers = s.answers.tail → Reply.toSend r = some (s.sendReply b) → Took k s r t :=
    fun r t ht hr => took_of Reply.toSend_inj (fun x ha => admitsSend (hk ▸ ha))
      (fun x xs z hx hz => State.sendReply_of hx hz) hr ht
  have sent : ∀ ack : Bool, ((s.sendTriggered b).sent b ack).answers = s.answers.tail
      ∧ ((s.sendTriggered b).sent b ack).hist = s.hist ++ [.tx b ack]
      ∧ ((s.sendTriggered b).sent b ack).busView = k.answered (.tx b ack) (if ack then a else n) := by
    intro ack
    obtain ⟨h1, h2, h3, h4⟩ | ⟨h1, h2, h3, h4⟩ := hp
    · rw [State.sent_of_address (show (s.sendTriggered b).phase = .started from h1), State.busView_complete]
      refine ⟨rfl, rfl, ?_⟩
      cases ack <;> simp [PlanStep.answered, hk, h2, h3, h4, PlanAction.trigger, State.sendTriggered, State.asked,
        State.trigger, Phase.code]
    · rw [State.sent_of_data (show (s.sendTriggered b).phase ≠ .started from h1), State.busView_complete]
      refine ⟨rfl, rfl, ?_⟩
      cases ack <;> simp [PlanStep.answered, hk, h2, h3, h4, PlanAction.trigger, State.sendTriggered, State.asked,
        State.trigger, Phase.code, sentCode, StatusCode.byte]
  have ends := busSend_ends b s
  cases h : s.sendReply b with
  | ack =>
    simp only [busSend, h, Waited.Ends] at ends ⊢
    exact ⟨ends.1, .ack, _, _, by simp, by rw [hk]; rfl, (sent true).2.1, (sent true).2.2,
      took _ _ (sent true).1 (by rw [h]; rfl)⟩
  | nack =>
    simp only [busSend, h, Waited.Ends] at ends ⊢
    exact ⟨ends.1, .nack, _, _, by simp, by rw [hk]; rfl, (sent false).2.1, (sent false).2.2,
      took _ _ (sent false).1 (by rw [h]; rfl)⟩
  | arbLost =>
    simp only [busSend, h, Waited.Ends] at ends ⊢
    refine ⟨ends.1, .arbLost, .arbLost, 0x38#8, by simp, by rw [hk]; rfl, rfl, ?_, took _ _ rfl (by rw [h]; rfl)⟩
    rw [State.busView_complete]
    simp [PlanStep.answered, hk, PlanAction.trigger, State.sendTriggered, State.asked, State.trigger, Phase.code,
      StatusCode.byte]
  | busErr =>
    simp only [busSend, h, Waited.Ends] at ends ⊢
    refine ⟨ends.1, .busErr, .busErr, 0x00#8, by simp, by rw [hk]; rfl, rfl, ?_, took _ _ rfl (by rw [h]; rfl)⟩
    rw [State.busView_complete]
    simp [PlanStep.answered, hk, PlanAction.trigger, State.sendTriggered, State.asked, State.trigger, Phase.code,
      StatusCode.byte]
  | never =>
    simp only [busSend, h]
    refine acted_unanswered (.of_trigger s b (by decide) (by decide)) rfl ?_ (took _ _ rfl (by rw [h]; rfl))
    rw [State.sendTriggered, State.busView_asked]
    simp [PlanStep.triggered, hk, PlanAction.trigger, State.busView, State.code]

/-- What a receive does is what R137 says in numbers. -/
theorem busRecv_acted {k : PlanStep} {ack : Bool} (hk : k.action = .recv ack) (hs : k.state = 3#3) (s : State) :
    Acted k s (busRecv ack s) := by
  have took : ∀ (r : Reply) (t : State), t.answers = s.answers.tail → Reply.toRecv r = some (s.recvReply ack) → Took k s r t :=
    fun r t ht hr => took_of Reply.toRecv_inj (fun x ha => admitsRecv (hk ▸ ha))
      (fun x xs z hx hz => State.recvReply_of hx hz) hr ht
  have ends := busRecv_ends ack s
  cases h : s.recvReply ack with
  | byte v =>
    simp only [busRecv, h, Waited.Ends] at ends ⊢
    refine ⟨ends.1, .byte v, _, _, by simp, by rw [hk]; rfl, rfl, ?_, took _ _ rfl (by rw [h]; rfl)⟩
    rw [State.busView_complete]
    cases ack <;> simp [PlanStep.answered, hk, hs, PlanAction.trigger, State.asked, State.trigger, Phase.code, recvCtrl,
      recvCode, StatusCode.byte]
  | arbLost =>
    simp only [busRecv, h, Waited.Ends] at ends ⊢
    refine ⟨ends.1, .arbLost, .arbLost, 0x38#8, by simp, by rw [hk]; rfl, rfl, ?_, took _ _ rfl (by rw [h]; rfl)⟩
    rw [State.busView_complete]
    cases ack <;> simp [PlanStep.answered, hk, PlanAction.trigger, State.asked, State.trigger, Phase.code, recvCtrl,
      StatusCode.byte]
  | busErr =>
    simp only [busRecv, h, Waited.Ends] at ends ⊢
    refine ⟨ends.1, .busErr, .busErr, 0x00#8, by simp, by rw [hk]; rfl, rfl, ?_, took _ _ rfl (by rw [h]; rfl)⟩
    rw [State.busView_complete]
    cases ack <;> simp [PlanStep.answered, hk, PlanAction.trigger, State.asked, State.trigger, Phase.code, recvCtrl,
      StatusCode.byte]
  | never =>
    simp only [busRecv, h]
    refine acted_unanswered (.of_trigger s s.data (by cases ack <;> decide) (by cases ack <;> decide)) rfl ?_
      (took _ _ rfl (by rw [h]; rfl))
    rw [State.busView_asked]
    cases ack <;> simp [PlanStep.triggered, hk, PlanAction.trigger, recvCtrl]

/-- What a stop on an owned bus does is what R135 says in numbers. -/
theorem busStop_acted {k : PlanStep} (hk : k.action = .stop) (hs : k.state = 4#3) {s : State} (ho : s.owned = true) :
    Acted k s (busStop s) := by
  have took : ∀ (r : Reply) (t : State), t.answers = s.answers.tail → Reply.toStop r = some s.stopReply → Took k s r t :=
    fun r t ht hr => took_of Reply.toStop_inj (fun x ha => admitsStop (hk ▸ ha))
      (fun x xs z hx hz => State.stopReply_of hx hz) hr ht
  have ends := busStop_ends s
  cases h : s.stopReply with
  | done =>
    simp only [busStop, ho, if_true, h, Waited.Ends] at ends ⊢
    refine ⟨ends.1, .done, .stop, 0xF8#8, by simp, by rw [hk]; rfl, rfl, ?_, took _ _ rfl (by rw [h]; rfl)⟩
    simp [PlanStep.answered, hk, hs, State.busView, State.released, State.asked, State.trigger, Phase.code, State.code,
      StatusCode.byte]
  | never =>
    simp only [busStop, ho, if_true, h]
    refine acted_unanswered (.of_trigger s s.data (by decide) (by decide)) rfl ?_ (took _ _ rfl (by rw [h]; rfl))
    rw [State.busView_asked]
    simp [PlanStep.triggered, hk, PlanAction.trigger]

/-! ### A part of a command -/

/-- More events in front. -/
def Played.after (events : List BusEvent) (p : Played) : Played := { p with events := events ++ p.events }

/-- What every part of a command keeps while the command goes on. -/
structure Alike (s t : State) : Prop where
  ok : t.ok = s.ok
  fail : t.fail = s.fail
  busy : t.busy = s.busy
  err : t.err = s.err
  cfg : t.cfg = s.cfg

theorem Alike.refl (s : State) : Alike s s := ⟨rfl, rfl, rfl, rfl, rfl⟩

theorem Alike.trans {s t u : State} (h : Alike s t) (k : Alike t u) : Alike s u :=
  ⟨k.ok.trans h.ok, k.fail.trans h.fail, k.busy.trans h.busy, k.err.trans h.err, k.cfg.trans h.cfg⟩

/-- A command is running: nothing is decided yet. -/
structure Running (s : State) : Prop where
  ok : s.ok = false
  fail : s.fail = false
  busy : s.busy = true
  err : s.err = 0#32

theorem Running.alike {s t : State} (h : Running s) (k : Alike s t) : Running t :=
  ⟨k.ok.trans h.ok, k.fail.trans h.fail, k.busy.trans h.busy, k.err.trans h.err⟩

/-- A command is over in `t`, as the steps `p` say from `s` for some replies `used`; and if the script is one for `p`, then
`used` is what it begins with. -/
def Over (p : List PlanStep) (s t : State) : Prop :=
  ∃ used out, (∀ ks rs, play s.cfg (p ++ ks) s.busView (used ++ rs) = some out)
    ∧ (∀ ks out, play s.cfg (p ++ ks) s.busView s.answers = some out → ∃ rest, s.answers = used ++ rest)
    ∧ out.Left s t

/-- A part of a command that begins in `s` goes as the steps `p` say: it is done, all of them answered as they require, with
`D` at the end; or the command is over. -/
def Plays (p : List PlanStep) (s : State) (D : State → Prop) : Run → Prop
  | .done t => D t ∧ Alike s t ∧ ∃ used events, t.hist = s.hist ++ events
      ∧ (∀ ks rs, play s.cfg (p ++ ks) s.busView (used ++ rs)
          = (play s.cfg ks t.busView rs).map (Played.after events))
      ∧ (∀ ks out, play s.cfg (p ++ ks) s.busView s.answers = some out → s.answers = used ++ t.answers)
  | .failed t => Over p s t
  | .hung t => Over p s t

theorem Played.Left.after {events : List BusEvent} {out : Played} {s t u : State} (h : out.Left t u)
    (hh : t.hist = s.hist ++ events) : (out.after events).Left s u :=
  ⟨by rw [h.hist, hh, List.append_assoc]; rfl, h.bus, h.ending⟩

/-- The rule of sequencing. -/
theorem Plays.andThen {p q : List PlanStep} {s : State} {D E : State → Prop} {r : Run} {f : State → Run}
    (h : Plays p s D r) (hf : ∀ t, Alike s t → D t → Plays q t E (f t)) : Plays (p ++ q) s E (r.andThen f) := by
  have ended : ∀ t, Over p s t → Over (p ++ q) s t := by
    rintro t ⟨used, out, h1, h2, h3⟩
    refine ⟨used, out, fun ks rs => ?_, fun ks out h => ?_, h3⟩
    · rw [List.append_assoc]
      exact h1 _ _
    · rw [List.append_assoc] at h
      exact h2 _ _ h
  cases r with
  | failed t => exact ended t h
  | hung t => exact ended t h
  | done t =>
    obtain ⟨hD, ha, used, events, hh, hp, hs⟩ := h
    have k := hf t ha hD
    have scripted : ∀ ks out, play s.cfg ((p ++ q) ++ ks) s.busView s.answers = some out →
        s.answers = used ++ t.answers ∧ ∃ out', play t.cfg (q ++ ks) t.busView t.answers = some out' := by
      intro ks out h
      rw [List.append_assoc] at h
      have e := hs _ _ h
      rw [e, hp] at h
      obtain ⟨out', ho, -⟩ := Option.map_eq_some_iff.mp h
      exact ⟨e, out', ha.cfg ▸ ho⟩
    have ended' : ∀ u, Over q t u → Over (p ++ q) s u := by
      rintro u ⟨used', out, h1, h2, h3⟩
      refine ⟨used ++ used', out.after events, fun ks rs => ?_, fun ks out h => ?_, h3.after hh⟩
      · rw [List.append_assoc, List.append_assoc, hp, ← ha.cfg, h1]
        rfl
      · obtain ⟨e, out', ho⟩ := scripted ks out h
        obtain ⟨rest, e'⟩ := h2 ks out' ho
        exact ⟨rest, by rw [e, e', List.append_assoc]⟩
    rw [Run.done_andThen]
    cases hr : f t with
    | failed u => exact ended' u (by rw [hr] at k; exact k)
    | hung u => exact ended' u (by rw [hr] at k; exact k)
    | done u =>
      rw [hr] at k
      obtain ⟨hE, ha', used', events', hh', hp', hs'⟩ := k
      refine ⟨hE, ha.trans ha', used ++ used', events ++ events', by rw [hh', hh, List.append_assoc], fun ks rs => ?_,
        fun ks out h => ?_⟩
      · rw [List.append_assoc, List.append_assoc, hp, ← ha.cfg, hp', Option.map_map]
        congr 1
        funext x
        simp [Played.after]
      · obtain ⟨e, out', ho⟩ := scripted ks out h
        rw [e, hs' ks out' ho, List.append_assoc]

theorem Plays.mono {p : List PlanStep} {s : State} {D E : State → Prop} {r : Run} (h : Plays p s D r)
    (hD : ∀ t, Alike s t → D t → E t) : Plays p s E r := by
  cases r with
  | done t => exact ⟨hD t h.2.1 h.1, h.2⟩
  | failed t => exact h
  | hung t => exact h

/-- A part with no bus action. -/
theorem Plays.of_done {s t : State} {D : State → Prop} (ha : Alike s t) (hh : t.hist = s.hist)
    (hb : t.busView = s.busView) (hn : t.answers = s.answers) (hD : D t) : Plays [] s D (.done t) :=
  ⟨hD, ha, [], [], by simp [hh], fun ks rs => by
    rw [hb]
    simp only [List.nil_append]
    cases play s.cfg ks s.busView rs <;> rfl, fun _ _ _ => by simp [hn]⟩

/-! ### One step -/

/-- An abort goes as `playAbort` says (R165, R275, R277). -/
theorem abortTransaction_plays (e : ErrInfo) (s : State) (h : Running s) :
    ∃ used out, (∀ rs, playAbort s.cfg e.word s.busView (used ++ rs) = some out)
      ∧ (∀ out, playAbort s.cfg e.word s.busView s.answers = some out → ∃ rest, s.answers = used ++ rest)
      ∧ ((∃ t, abortTransaction e s = .failed t ∧ out.Left s t) ∨ ∃ t, abortTransaction e s = .hung t ∧ out.Left s t) := by
  have fail : ∀ u : State, u.ok = s.ok → ∀ events b, u.hist = s.hist ++ events → u.busView = b →
      Played.Left { events := events, bus := b, ending := .failed e.word } s (u.failWith e) :=
    fun u hu events b hh hb => ⟨hh, hb, hu.trans h.ok, rfl, rfl, rfl, rfl, rfl⟩
  unfold abortTransaction playAbort
  cases hs : s.cfg.stopOnAbort with
  | false =>
    refine ⟨[], _, fun _ => rfl, fun _ _ => ⟨_, rfl⟩, .inl ⟨_, rfl, fail s rfl [] _ (by simp) rfl⟩⟩
  | true =>
    simp only [if_true, State.busView_owned]
    cases ho : s.owned with
    | false =>
      have ho' : State.owned { s with err := e.word } = false := ho
      simp only [busStop, ho', Bool.false_eq_true, if_false]
      refine ⟨[], _, fun _ => rfl, fun _ _ => ⟨_, rfl⟩, .inl ⟨_, rfl, fail _ (by rfl) [] _ (by
        show s.hist = _
        simp) ?_⟩⟩
      simp [State.busView, State.released, State.trigger, State.code, Phase.code, StatusCode.byte]
    | true =>
      have ho' : State.owned { s with err := e.word } = true := ho
      have hr : State.stopReply { s with err := e.word } = s.stopReply := rfl
      have script : ∀ x xs, s.answers = x :: xs → ∀ z, Reply.toStop x = some z → s.stopReply = z := fun x xs hx z hz =>
        State.stopReply_of hx hz
      simp only [busStop, ho', if_true, hr]
      cases hy : s.stopReply with
      | done =>
        refine ⟨[.done], { events := [.stop], bus := { phase := 4, ctrl := 0x04, code := 0xF8 }, ending := .failed e.word },
          fun _ => rfl, fun out ha => ?_, .inl ⟨_, rfl, fail _ (by rfl) _ _ rfl ?_⟩⟩
        · cases hx : s.answers with
          | nil => simp [hx] at ha
          | cons x xs =>
            cases x <;> simp [hx] at ha
            · exact ⟨xs, rfl⟩
            · have := script _ _ hx _ rfl
              simp [hy] at this
        · simp [State.busView, State.released, State.trigger, State.asked, State.code, Phase.code, StatusCode.byte]
      | never =>
        have script' : ∀ out : Played, (match s.answers with
            | .done :: _ => some { events := [.stop], bus := { phase := 4, ctrl := 0x04, code := 0xF8 }, ending := .failed e.word }
            | .never :: _ => some {
                events := [], bus := { s.busView with ctrl := 0x14, code := 0xF8 }
                ending := match s.cfg.waitLimit with
                  | .inf => .hangsInStop
                  | .finite _ => .failed e.word }
            | _ => none) = some out → ∃ rest, s.answers = [.never] ++ rest := by
          intro out ha
          cases hx : s.answers with
          | nil => simp [hx] at ha
          | cons x xs =>
            cases x <;> simp [hx] at ha
            · have := script _ _ hx _ rfl
              simp [hy] at this
            · exact ⟨xs, rfl⟩
        have hb : (({ s with err := e.word }.trigger 0x14#8).asked).busView
            = { s.busView with ctrl := 0x14, code := 0xF8 } := State.busView_asked _ _
        have he : s.hist = s.hist ++ [] := by simp
        obtain hw | ⟨n, hw⟩ : s.cfg.waitLimit = .inf ∨ ∃ n, s.cfg.waitLimit = .finite n := by
          cases s.cfg.waitLimit <;> simp
        · have hw' : (({ s with err := e.word }.trigger 0x14#8).asked).cfg.waitLimit = .inf := hw
          simp only [State.unanswered, hw']
          exact ⟨[.never], _, fun _ => rfl, script', .inr ⟨_, rfl, he, hb, by simp only [hw]; exact ⟨h.ok, h.fail, h.busy⟩⟩⟩
        · have hw' : (({ s with err := e.word }.trigger 0x14#8).asked).cfg.waitLimit = .finite n := hw
          simp only [State.unanswered, hw']
          refine ⟨[.never], _, fun _ => rfl, script', .inl ⟨_, rfl, ?_⟩⟩
          simp only [hw]
          exact fail _ (by rfl) [] _ he hb

/-- The data `k` are those of the step `label` of the sequencer, in a transaction whose mismatches are of kind `kind` and in
the sensor step `sp`. -/
structure PlanStep.Fits (k : PlanStep) (kind : ErrKind) (label : TLabel) (sp : SLabel) : Prop where
  tpc : label.code = k.tpc
  spc : sp.code = k.spc
  state : label.errState.code = k.state
  kind : kind.code = k.kind
  checked : ∀ c, label.expected = some c → c.byte = k.expected
  unchecked : label.expected = none → k.action = .stop ∧ k.expected = 0xF8#8
  found : k.expected ≠ 0x38#8 ∧ k.expected ≠ 0x00#8

/-- A step whose status is checked. -/
theorem PlanStep.Fits.ofCheck {k : PlanStep} {kind : ErrKind} {label : TLabel} {sp : SLabel} {c : StatusCode}
    (hx : label.expected = some c) (tpc : label.code = k.tpc) (spc : sp.code = k.spc)
    (state : label.errState.code = k.state) (hk : kind.code = k.kind) (he : c.byte = k.expected)
    (hc : c ≠ .arbLost ∧ c ≠ .busError) : k.Fits kind label sp where
  tpc := tpc
  spc := spc
  state := state
  kind := hk
  checked := fun c' h => by
    rw [hx] at h
    cases h
    exact he
  unchecked := fun h => by simp [hx] at h
  found := ⟨fun h => hc.1 (StatusCode.byte_injective (he.trans h)), fun h => hc.2 (StatusCode.byte_injective (he.trans h))⟩

/-- A lost bus is seen in the status code (R139). -/
theorem PlanAction.outcome_lost {a : PlanAction} {owned : Bool} {r : Reply} {e : BusEvent} {c : Byte}
    (h : a.outcome owned r = some (e, c)) : (e = .arbLost → c = 0x38#8) ∧ (e = .busErr → c = 0x00#8) := by
  cases owned <;> cases a <;> cases r <;> simp only [PlanAction.outcome, Option.some.injEq, Prod.mk.injEq, reduceCtorEq,
    Bool.false_eq_true, if_true, if_false] at h <;> obtain ⟨rfl, rfl⟩ := h <;> simp

/-- What a stop leaves. -/
theorem PlanAction.outcome_stop {owned : Bool} {r : Reply} {e : BusEvent} {c : Byte}
    (h : PlanAction.outcome owned .stop r = some (e, c)) : c = 0xF8#8 := by
  cases r <;> simp [PlanAction.outcome] at h
  exact h.2.symm

theorem play_answered {cfg : Params} {k : PlanStep} {ks : List PlanStep} {b : BusView} {r : Reply} {rs : List Reply}
    {e : BusEvent} {c : Byte} (hr : r ≠ .never) (ho : k.action.outcome b.owned r = some (e, c)) :
    play cfg (k :: ks) b (r :: rs) = (if c = k.expected then play cfg ks (k.answered e c) rs
      else playAbort cfg (k.record k.kind k.expected c) (k.answered e c) rs).map (Played.after [e]) := by
  rw [play, if_neg hr, ho]
  rfl

theorem play_inf {cfg : Params} {k : PlanStep} {ks : List PlanStep} {b : BusView} {rs : List Reply}
    (h : cfg.waitLimit = .inf) : play cfg (k :: ks) b (.never :: rs)
      = some { events := [], bus := k.triggered b, ending := .hangs k.spc k.tpc } := by
  rw [play, if_pos rfl, h]

theorem play_finite {cfg : Params} {k : PlanStep} {ks : List PlanStep} {b : BusView} {rs : List Reply} {n : Nat}
    (h : cfg.waitLimit = .finite n) : play cfg (k :: ks) b (.never :: rs)
      = playAbort cfg (k.record 3 0 0) (k.triggered b) rs := by
  rw [play, if_pos rfl, h]

/-- A script that `play` can follow has a next reply, and it is one of the action's outcome set. -/
theorem play_script {cfg : Params} {k : PlanStep} {ks : List PlanStep} {b : BusView} {l : List Reply} {out : Played}
    (h : play cfg (k :: ks) b l = some out) :
    ∃ r rs, l = r :: rs ∧ (r = .never ∨ (k.action.outcome b.owned r).isSome = true) := by
  cases l with
  | nil => simp [play] at h
  | cons r rs =>
    refine ⟨r, rs, rfl, ?_⟩
    by_cases hr : r = .never
    · exact .inl hr
    · right
      rw [play, if_neg hr] at h
      cases ho : k.action.outcome b.owned r with
      | none => simp [ho] at h
      | some x => rfl

/-- One step of the sequencer goes as its data say (R160). -/
theorem seqStep_plays {kind : ErrKind} {label : TLabel} {action : State → Waited} {k : PlanStep} {s : State}
    (hr : Running s) (hk : k.Fits kind label s.spc)
    (ha : Acted k { s with tpc := label } (action { s with tpc := label })) :
    Plays [k] s (fun t => t.spc = s.spc ∧ t.tpc = label ∧ t.phase.code = k.state) (seqStep kind label action s) := by
  have hv : State.busView { s with tpc := label } = s.busView := rfl
  have alike : ∀ t, ActionWork { s with tpc := label } t → Alike s t := fun t h =>
    ⟨h.ok, h.fail, h.busy, h.err, h.held.cfg⟩
  -- what an abort in `t` makes of the command, when `r` was the reply to the step's action
  have abort : ∀ (e : ErrInfo) (t : State) (r : Reply) (events : List BusEvent), Alike s t → t.hist = s.hist ++ events →
      Took k { s with tpc := label } r t →
      (∀ ks rs, play s.cfg (k :: ks) s.busView (r :: rs)
        = (playAbort s.cfg e.word t.busView rs).map (Played.after events)) →
      Plays [k] s (fun t => t.spc = s.spc ∧ t.tpc = label ∧ t.phase.code = k.state) (abortTransaction e t) := by
    intro e t r events hl hh htook hp
    obtain ⟨used, out, h1, h2, h3⟩ := abortTransaction_plays e t (hr.alike hl)
    have ended : ∀ u, out.Left t u → Over [k] s u := by
      intro u hu
      refine ⟨r :: used, out.after events, fun ks rs => ?_, fun ks out' ho => ?_, hu.after hh⟩
      · show play s.cfg (k :: ks) s.busView (r :: (used ++ rs)) = _
        rw [hp, ← hl.cfg, h1]
        rfl
      · have ho' : play s.cfg (k :: ks) s.busView s.answers = some out' := ho
        obtain ⟨x, xs, hx, hadm⟩ := play_script ho'
        obtain ⟨rfl, hxs⟩ := htook x xs hx (by rwa [State.busView_owned] at hadm)
        rw [hx, hp, ← hl.cfg, ← hxs] at ho'
        obtain ⟨out'', ho'', -⟩ := Option.map_eq_some_iff.mp ho'
        obtain ⟨rest, hrest⟩ := h2 out'' ho''
        exact ⟨rest, by rw [hx, ← hxs, hrest]; rfl⟩
    obtain ⟨u, hu, hl'⟩ | ⟨u, hu, hl'⟩ := h3
    · rw [hu]
      exact ended u hl'
    · rw [hu]
      exact ended u hl'
  unfold seqStep
  cases hw : action { s with tpc := label } with
  | completed t =>
    rw [hw] at ha
    obtain ⟨work, r, e, c, hne, ho, hh, hb, htook⟩ := ha
    have hl := alike t work
    have htp : t.tpc = label := work.tpc
    have hsp : t.spc = s.spc := work.spc
    have ho' : k.action.outcome s.busView.owned r = some (e, c) := by rwa [State.busView_owned]
    have hcode : t.code = c := congrArg BusView.code hb
    have hplay : ∀ ks rs, play s.cfg (k :: ks) s.busView (r :: rs) = _ := fun ks rs => play_answered hne ho'
    have passed : c = k.expected →
        Plays [k] s (fun t => t.spc = s.spc ∧ t.tpc = label ∧ t.phase.code = k.state) (.done t) := by
      intro hc
      have hlost := PlanAction.outcome_lost ho
      have hphase : t.phase.code = k.state := by
        have : t.phase.code = (k.answered e c).phase := congrArg BusView.phase hb
        rw [this, PlanStep.answered, if_neg]
        rintro (rfl | rfl)
        · exact hk.found.1 (hc ▸ hlost.1 rfl)
        · exact hk.found.2 (hc ▸ hlost.2 rfl)
      refine ⟨⟨hsp, htp, hphase⟩, hl, [r], [e], hh, fun ks rs => ?_, fun ks out hs => ?_⟩
      · show play s.cfg (k :: ks) s.busView (r :: rs) = _
        rw [hplay, if_pos hc, hb]
      · obtain ⟨x, xs, hx, hadm⟩ := play_script (show play s.cfg (k :: ks) s.busView s.answers = some out from hs)
        obtain ⟨rfl, hxs⟩ := htook x xs hx (by rwa [State.busView_owned] at hadm)
        rw [hx, hxs]
        rfl
    simp only [expectCode, htp]
    cases hx : label.expected with
    | none =>
      obtain ⟨h1, h2⟩ := hk.unchecked hx
      rw [h1] at ho
      exact passed (by rw [PlanAction.outcome_stop ho, h2])
    | some x =>
      have hxe := hk.checked x hx
      by_cases hc : c = k.expected
      · simp only [hcode, hxe, hc, if_true]
        exact passed hc
      · have hc' : ¬ t.code = x.byte := by rw [hcode, hxe]; exact hc
        simp only [hc', if_false]
        refine abort _ t r [e] hl hh htook fun ks rs => ?_
        rw [hplay, if_neg hc, hb]
        have : (t.mismatchAt kind x).word = k.record k.kind k.expected c := by
          rw [ErrInfo.word_eq_append]
          simp only [State.mismatchAt, htp, hsp, hcode, hxe, hk.tpc, hk.spc, hk.state, hk.kind]
          rfl
        rw [this]
  | timedOut t =>
    rw [hw] at ha
    obtain ⟨work, hh, hb, htook, n, hn⟩ := ha
    refine abort _ t .never [] (alike t work) (by rw [hh]; simp) htook fun ks rs => ?_
    have : t.timeoutAt.word = k.record 3 0 0 := by
      rw [ErrInfo.word_eq_append]
      simp only [State.timeoutAt, show t.tpc = label from work.tpc, show t.spc = s.spc from work.spc, hk.tpc, hk.spc,
        hk.state]
      rfl
    rw [play_finite hn, this, hb, hv]
    cases playAbort s.cfg (k.record 3 0 0) (k.triggered s.busView) rs <;> rfl
  | hung t =>
    rw [hw] at ha
    obtain ⟨work, hh, hb, htook, hn⟩ := ha
    have hl := alike t work
    refine ⟨[.never], _, fun ks rs => play_inf hn, fun ks out hs => ?_, ?_⟩
    · obtain ⟨x, xs, hx, hadm⟩ := play_script (show play s.cfg (k :: ks) s.busView s.answers = some out from hs)
      obtain ⟨rfl, -⟩ := htook x xs hx (by rwa [State.busView_owned] at hadm)
      exact ⟨xs, hx⟩
    · have hrun := hr.alike hl
      exact ⟨by rw [hh]; simp, hb, hrun.ok, hrun.fail, hrun.busy, hrun.err, by rw [work.spc]; exact hk.spc,
        by rw [work.tpc]; exact hk.tpc⟩

/-! ### Transactions -/

theorem Phase.code_injective {p q : Phase} (h : p.code = q.code) : p = q := by
  cases p <;> cases q <;> first | rfl | exact absurd h (by decide)

theorem slaW_eq_append (dev : DevAddr) : slaW dev = dev ++ 0#1 := by
  apply BitVec.eq_of_getLsbD_eq
  intro i hi
  change _ = BitVec.getLsbD (w := 7 + 1) _ i
  simp only [BitVec.getLsbD_append]
  interval_cases i <;> simp [slaW]

theorem slaR_eq_append (dev : DevAddr) : slaR dev = dev ++ 1#1 := by
  apply BitVec.eq_of_getLsbD_eq
  intro i hi
  change _ = BitVec.getLsbD (w := 7 + 1) _ i
  simp only [BitVec.getLsbD_append]
  interval_cases i <;> simp [slaR]

/-- How far a transaction that began in `s` has come: the sensor step is the same, the phase is `p`. -/
def AtPhase (s : State) (p : Phase) (t : State) : Prop := t.spc = s.spc ∧ t.phase = p

theorem Plays.atPhase {k : PlanStep} {s : State} {label : TLabel} {r : Run} (p : Phase) (hp : k.state = p.code)
    (h : Plays [k] s (fun t => t.spc = s.spc ∧ t.tpc = label ∧ t.phase.code = k.state) r) :
    Plays [k] s (AtPhase s p) r :=
  h.mono fun _ _ ⟨h1, _, h2⟩ => ⟨h1, Phase.code_injective (h2.trans hp)⟩

/-- T1 to T3 (R161). -/
theorem preamble_plays {kind : ErrKind} {sp kd : BitVec 4} (hk : kind.code = kd) (dev : DevAddr) (reg : Byte) {s : State} (hr : Running s)
    (hs : s.spc.code = sp) : Plays (addressingPlan sp kd dev reg) s (AtPhase s .dataPhase) (preamble kind dev reg s) := by
  refine Plays.andThen (p := [_]) (q := [_, _]) (Plays.atPhase .started rfl (seqStep_plays hr
    (.ofCheck rfl rfl (hs) rfl hk rfl (by decide))
    (busStart_acted rfl rfl _))) fun t ht ⟨hsp, hp⟩ => ?_
  refine Plays.andThen (p := [_]) (q := [_]) (Plays.atPhase .addrSent rfl (seqStep_plays (hr.alike ht)
    (.ofCheck rfl rfl (hsp ▸ hs) rfl hk rfl (by decide))
    (busSend_acted (b := slaW dev) (by rw [slaW_eq_append]) _ (.inl ⟨hp, rfl, by rw [dirOfAddr_slaW]; rfl,
      by rw [dirOfAddr_slaW]; rfl⟩)))) fun u hu ⟨hsu, hpu⟩ => ?_
  refine (Plays.atPhase .dataPhase rfl (seqStep_plays ((hr.alike ht).alike hu)
    (.ofCheck rfl rfl (hsu ▸ hsp ▸ hs) rfl hk rfl (by decide))
    (busSend_acted rfl _ (.inr ⟨by simp [hpu], rfl, rfl, rfl⟩)))).mono fun v _ h => ⟨?_, h.2⟩
  rw [h.1, hsu, hsp]

/-- T9 and the return to T0 (R161), with what the transaction still writes. -/
theorem stop_plays {kind : ErrKind} {sp kd : BitVec 4} (hk : kind.code = kd) {s : State} (hr : Running s) (hs : s.spc.code = sp)
    (hp : s.phase = .dataPhase) : Plays (stopPlan sp kd) s (fun t => t.spc = s.spc) (seqStep kind .t9 busStop s) :=
  (seqStep_plays hr ⟨rfl, hs, rfl, hk, by simp [TLabel.expected], fun _ => ⟨rfl, rfl⟩, by simp⟩
    (busStop_acted rfl rfl (by simp [State.owned, hp]))).mono fun _ _ h => h.1

/-- A part with no bus action after it. -/
theorem Plays.andQuiet {p : List PlanStep} {s : State} {D E : State → Prop} {r : Run} {f : State → Run}
    (h : Plays p s D r) (hf : ∀ t, Alike s t → D t → Plays [] t E (f t)) : Plays p s E (r.andThen f) :=
  List.append_nil p ▸ h.andThen hf

/-- What follows a transaction keeps the bus registers, the history and the script. -/
theorem Plays.finish {p : List PlanStep} {s : State} {D E : State → Prop} {r : Run} {f : State → State}
    (h : Plays p s D r) (hf : ∀ t, Alike t (f t) ∧ (f t).hist = t.hist ∧ (f t).busView = t.busView
      ∧ (f t).answers = t.answers) (hE : ∀ t, Alike s t → D t → E (f t)) :
    Plays p s E (r.andThen fun t => .done (f t)) := by
  exact h.andQuiet fun t ha hD => .of_done (hf t).1 (hf t).2.1 (hf t).2.2.1 (hf t).2.2.2 (hE t ha hD)

theorem Plays.prepare {p : List PlanStep} {s s' : State} {D : State → Prop} {r : Run} (ha : Alike s s')
    (hh : s'.hist = s.hist) (hb : s'.busView = s.busView) (hn : s'.answers = s.answers) (h : Plays p s' D r) :
    Plays p s D r :=
  Plays.andThen (p := []) (f := fun _ => r) (D := fun t => t = s') (.of_done ha hh hb hn rfl) fun _ _ e => e ▸ h

/-- The write transaction (R162). -/
theorem memWrite_plays {sp : BitVec 4} (dev : DevAddr) (reg v : Byte) {s : State} (hr : Running s) (hs : s.spc.code = sp) :
    Plays (writePlan sp dev reg v) s (fun t => t.spc = s.spc ∧ t.tpc = .t0) (memWrite dev reg v s) := by
  rw [writePlan, List.append_assoc]
  refine (preamble_plays rfl dev reg hr hs).andThen fun t ht ⟨hst, hpt⟩ => ?_
  refine Plays.andThen (Plays.atPhase .dataPhase rfl (seqStep_plays (hr.alike ht)
    (.ofCheck rfl rfl (hst ▸ hs) rfl rfl rfl (by decide))
    (busSend_acted rfl _ (.inr ⟨by simp [hpt], rfl, rfl, rfl⟩)))) fun u hu ⟨hsu, hpu⟩ => ?_
  refine (stop_plays rfl ((hr.alike ht).alike hu) (hsu ▸ hst ▸ hs) hpu).finish
    (fun t => ⟨⟨rfl, rfl, rfl, rfl, rfl⟩, rfl, rfl, rfl⟩) fun v _ h => ⟨?_, rfl⟩
  show v.spc = s.spc
  rw [h, hsu, hst]

/-- A receive step (R161, T7 and T8). -/
theorem recvStep_plays {kind : ErrKind} {k : PlanStep} {label : TLabel} {ack : Bool} {s : State} (hr : Running s)
    (hk : k.Fits kind label s.spc) (ha : k.action = .recv ack) (hs : k.state = 3#3) :
    Plays [k] s (AtPhase s .dataPhase) (recvStep kind label ack s) :=
  (Plays.atPhase .dataPhase hs (seqStep_plays hr hk (busRecv_acted ha hs _))).finish
    (fun _ => ⟨⟨rfl, rfl, rfl, rfl, rfl⟩, rfl, rfl, rfl⟩) fun _ _ h => h

/-- The loop over T7 (R161, R164). -/
theorem recvAcked_plays {kind : ErrKind} {sp kd : BitVec 4} (hk : kind.code = kd) : ∀ (n : Nat) {s : State}, Running s → s.spc.code = sp →
    Plays (List.replicate n { spc := sp, kind := kd, tpc := 7, state := 3, expected := 0x50, action := .recv true }) s
      (fun t => t.spc = s.spc) (recvAcked kind n s)
  | 0, s, _, _ => .of_done (.refl s) rfl rfl rfl rfl
  | n + 1, s, hr, hs => by
    refine Plays.andThen (p := [_]) (recvStep_plays hr
      (.ofCheck rfl rfl (hs) rfl hk rfl (by decide)) rfl rfl)
      fun t ht ⟨hst, _⟩ => ?_
    exact (recvAcked_plays hk n (hr.alike ht) (hst ▸ hs)).mono fun u _ h => h.trans hst

/-- The read transaction (R164). -/
theorem memRead_plays {kind : ErrKind} {sp kd : BitVec 4} (hk : kind.code = kd) (dev : DevAddr) (reg count : Byte) {s : State}
    (hr : Running s) (hs : s.spc.code = sp) :
    Plays (readPlan sp kd dev reg count.toNat) s (fun t => t.spc = s.spc ∧ t.tpc = .t0)
      (memRead kind dev reg count s) := by
  have h0 : Alike s { s with rxLen := 0#8, idx := 0#8 } := ⟨rfl, rfl, rfl, rfl, rfl⟩
  refine Plays.prepare h0 rfl rfl rfl ?_
  rw [readPlan, List.append_assoc, List.append_assoc, List.append_assoc]
  refine (preamble_plays hk dev reg (hr.alike h0) hs).andThen fun t ht ⟨hst, hpt⟩ => ?_
  have rt := (hr.alike h0).alike ht
  refine Plays.andThen (p := [_]) (q := [_] ++ _) (Plays.atPhase .started rfl (seqStep_plays rt
    (.ofCheck rfl rfl (hst ▸ hs) rfl hk rfl (by decide))
    (busStart_acted rfl rfl _))) fun u hu ⟨hsu, hpu⟩ => ?_
  have ru := rt.alike hu
  refine Plays.andThen (Plays.atPhase .addrSent rfl (seqStep_plays ru
    (.ofCheck rfl rfl (hsu ▸ hst ▸ hs) rfl hk rfl (by decide))
    (busSend_acted (b := slaR dev) (by rw [slaR_eq_append]) _ (.inl ⟨hpu, rfl, by rw [dirOfAddr_slaR]; rfl,
      by rw [dirOfAddr_slaR]; rfl⟩)))) fun v hv ⟨hsv, _⟩ => ?_
  have rv := ru.alike hv
  have hspv : v.spc = s.spc := by rw [hsv, hsu, hst]
  refine (recvAcked_plays hk (count.toNat - 1) rv (hspv ▸ hs)).andThen fun w hw hsw => ?_
  refine (recvStep_plays (rv.alike hw)
    (.ofCheck rfl rfl (hsw ▸ hspv ▸ hs) rfl hk rfl (by decide)) rfl
    rfl).andThen fun x hx ⟨hsx, hpx⟩ => ?_
  refine (stop_plays hk ((rv.alike hw).alike hx) (hsx ▸ hsw ▸ hspv ▸ hs) hpx).finish
    (fun t => ⟨⟨rfl, rfl, rfl, rfl, rfl⟩, rfl, rfl, rfl⟩) fun y _ h => ⟨?_, rfl⟩
  show y.spc = s.spc
  rw [h, hsx, hsw, hspv]

/-! ### Sensor steps (R190 to R194) -/

/-- The LDCAL step. -/
theorem ldcalStep_plays {sp : BitVec 4} (dev : DevAddr) {s : State} (hr : Running s) (hs : s.spc.code = sp) :
    Plays (readPlan sp 2 dev 0x88 24) s (fun t => t.spc = s.spc ∧ t.tpc = .t0) (ldcalStep dev s) :=
  (memRead_plays rfl dev calReg calLen hr hs).finish (fun _ => ⟨⟨rfl, rfl, rfl, rfl, rfl⟩, rfl, rfl, rfl⟩) fun _ _ h => h

/-- The REQM step. -/
theorem reqmStep_plays {sp : BitVec 4} (dev : DevAddr) {s : State} (hr : Running s) (hs : s.spc.code = sp) :
    Plays (writePlan sp dev 0xF4 0x25) s (fun t => t.spc = s.spc ∧ t.tpc = .t0) (reqmStep dev s) :=
  have h0 : Alike s { s with measOk := false, rawTValid := false, rawPValid := false, tFineValid := false } :=
    ⟨rfl, rfl, rfl, rfl, rfl⟩
  Plays.prepare h0 rfl rfl rfl ((memWrite_plays dev measReg measVal (hr.alike h0) hs).finish
    (fun _ => ⟨⟨rfl, rfl, rfl, rfl, rfl⟩, rfl, rfl, rfl⟩) fun _ _ h => h)

/-- The RDRT step. -/
theorem rdrtStep_plays {sp : BitVec 4} (dev : DevAddr) {s : State} (hr : Running s) (hs : s.spc.code = sp) :
    Plays (readPlan sp 1 dev 0xFA 3) s (fun t => t.spc = s.spc ∧ t.tpc = .t0) (rdrtStep dev s) :=
  have h0 : Alike s { s with rawTValid := false } := ⟨rfl, rfl, rfl, rfl, rfl⟩
  Plays.prepare h0 rfl rfl rfl ((memRead_plays rfl dev tempReg rawLen (hr.alike h0) hs).finish
    (fun _ => ⟨⟨rfl, rfl, rfl, rfl, rfl⟩, rfl, rfl, rfl⟩) fun _ _ h => h)

/-- The RDRP step. -/
theorem rdrpStep_plays {sp : BitVec 4} (dev : DevAddr) {s : State} (hr : Running s) (hs : s.spc.code = sp) :
    Plays (readPlan sp 1 dev 0xF7 3) s (fun t => t.spc = s.spc ∧ t.tpc = .t0) (rdrpStep dev s) :=
  have h0 : Alike s { s with rawPValid := false } := ⟨rfl, rfl, rfl, rfl, rfl⟩
  Plays.prepare h0 rfl rfl rfl ((memRead_plays rfl dev pressReg rawLen (hr.alike h0) hs).finish
    (fun _ => ⟨⟨rfl, rfl, rfl, rfl, rfl⟩, rfl, rfl, rfl⟩) fun _ _ h => h)

/-- A step of the sensor sequencer that has a bus action (R250). -/
theorem sensorStep_plays {p : List PlanStep} {label : SLabel} {step : State → Run} {s : State} (hr : Running s)
    (h : ∀ {s : State}, Running s → s.spc.code = label.code → Plays p s (fun t => t.spc = s.spc ∧ t.tpc = .t0) (step s)) :
    Plays p s (fun t => t.tpc = .t0) (sensorStep label step s) :=
  have h0 : Alike s { s with spc := label } := ⟨rfl, rfl, rfl, rfl, rfl⟩
  (Plays.prepare h0 rfl rfl rfl (h (hr.alike h0) rfl)).mono fun _ _ h => h.2

/-- A step of the sensor sequencer without a bus action (R250). -/
theorem sensorStep_quiet {label : SLabel} {f : State → State} {s : State} (ht : s.tpc = .t0)
    (hf : ∀ t, Alike t (f t) ∧ (f t).hist = t.hist ∧ (f t).busView = t.busView ∧ (f t).answers = t.answers
      ∧ (f t).tpc = t.tpc) : Plays [] s (fun t => t.tpc = .t0) (sensorStep label (fun s => .done (f s)) s) :=
  have h0 : Alike s { s with spc := label } := ⟨rfl, rfl, rfl, rfl, rfl⟩
  have k := hf { s with spc := label }
  .of_done (h0.trans k.1) k.2.1 k.2.2.1 k.2.2.2.1 (k.2.2.2.2.trans ht)

/-- The body of SREAD (R252). -/
theorem sreadBody_plays (dev : DevAddr) {s : State} (hr : Running s) :
    Plays (cyclePlan dev) s (fun t => t.spc = .s0 ∧ t.tpc = .t0) (sreadBody dev s) := by
  rw [cyclePlan, List.append_assoc]
  refine Plays.andThen (sensorStep_plays hr fun hr hs => reqmStep_plays dev hr hs) fun t ht _ => ?_
  have r := hr.alike ht
  refine Plays.andThen (sensorStep_plays r fun hr hs => rdrtStep_plays dev hr hs) fun t ht h => ?_
  have r := r.alike ht
  refine Plays.andThen (p := []) (sensorStep_quiet h fun _ => ⟨⟨rfl, rfl, rfl, rfl, rfl⟩, rfl, rfl, rfl, rfl⟩)
    fun t ht _ => ?_
  refine (sensorStep_plays (r.alike ht) fun hr hs => rdrpStep_plays dev hr hs).andQuiet fun t _ h => ?_
  refine Plays.andQuiet (sensorStep_quiet h fun _ => ⟨⟨rfl, rfl, rfl, rfl, rfl⟩, rfl, rfl, rfl, rfl⟩) fun t _ h => ?_
  refine Plays.andQuiet (sensorStep_quiet h fun _ => ⟨⟨rfl, rfl, rfl, rfl, rfl⟩, rfl, rfl, rfl, rfl⟩) fun t _ h => ?_
  exact .of_done ⟨rfl, rfl, rfl, rfl, rfl⟩ rfl rfl rfl ⟨rfl, h⟩

/-- One cycle of SINIT (R253). -/
theorem warmupCycle_plays (dev : DevAddr) {s : State} (hr : Running s) :
    Plays (cyclePlan dev) s (fun t => t.tpc = .t0) (warmupCycle dev s) := by
  rw [cyclePlan, List.append_assoc]
  refine Plays.andThen (sensorStep_plays hr fun hr hs => reqmStep_plays dev hr hs) fun t ht _ => ?_
  have r := hr.alike ht
  refine Plays.andThen (sensorStep_plays r fun hr hs => rdrtStep_plays dev hr hs) fun t ht h => ?_
  have r := r.alike ht
  refine Plays.andThen (p := []) (sensorStep_quiet h fun _ => ⟨⟨rfl, rfl, rfl, rfl, rfl⟩, rfl, rfl, rfl, rfl⟩)
    fun t ht h => ?_
  have r := r.alike ht
  refine Plays.andThen (p := []) (sensorStep_quiet h fun _ => ⟨⟨rfl, rfl, rfl, rfl, rfl⟩, rfl, rfl, rfl, rfl⟩)
    fun t ht _ => ?_
  refine (sensorStep_plays (r.alike ht) fun hr hs => rdrpStep_plays dev hr hs).andQuiet fun t _ h => ?_
  refine Plays.andQuiet (sensorStep_quiet h fun _ => ⟨⟨rfl, rfl, rfl, rfl, rfl⟩, rfl, rfl, rfl, rfl⟩) fun t _ h => ?_
  exact sensorStep_quiet h fun _ => ⟨⟨rfl, rfl, rfl, rfl, rfl⟩, rfl, rfl, rfl, rfl⟩

theorem warmup_plays (dev : DevAddr) : ∀ (n : Nat) {s : State}, Running s → s.tpc = .t0 →
    Plays (List.replicate n (cyclePlan dev)).flatten s (fun t => t.tpc = .t0) (warmup dev n s)
  | 0, s, _, ht => .of_done (.refl s) rfl rfl rfl ht
  | n + 1, _, hr, _ => Plays.andThen (warmupCycle_plays dev hr) fun _ h h' => warmup_plays dev n (hr.alike h) h'

/-- The body of SINIT (R253). -/
theorem sinitBody_plays (dev : DevAddr) {s : State} (hr : Running s) :
    Plays (busPlan (.sinit dev)) s (fun t => t.spc = .s0 ∧ t.tpc = .t0) (sinitBody dev s) := by
  rw [busPlan]
  refine Plays.andThen (sensorStep_plays hr fun hr hs => ldcalStep_plays dev hr hs) fun t ht h => ?_
  have r := hr.alike ht
  refine Plays.andThen (p := []) (D := fun t => t.tpc = .t0) (.of_done ⟨rfl, rfl, rfl, rfl, rfl⟩ rfl rfl rfl h)
    fun t ht h => ?_
  refine (warmup_plays dev 10 (r.alike ht) h).andQuiet fun t _ h => ?_
  refine Plays.andQuiet (sensorStep_quiet h fun _ => ⟨⟨rfl, rfl, rfl, rfl, rfl⟩, rfl, rfl, rfl, rfl⟩) fun t _ h => ?_
  exact .of_done ⟨rfl, rfl, rfl, rfl, rfl⟩ rfl rfl rfl ⟨rfl, h⟩

/-- A command that goes as `p` says leaves what `play` makes of some replies, and of the script if it is one for `p`. -/
theorem runCommand_plays {p : List PlanStep} {checks : State → List Check} {body : State → Run} {s : State}
    (hc : firstRefusal (checks s.beginCommand) = none)
    (h : Running s.beginCommand → s.beginCommand.tpc = .t0 → s.beginCommand.spc = .s0 →
      Plays p s.beginCommand (fun t => t.spc = .s0 ∧ t.tpc = .t0) (body s.beginCommand)) :
    ∃ t, runCommand checks body s = .next t
      ∧ (∃ replies out, play s.cfg p s.busView replies = some out ∧ out.Left s t)
      ∧ ∀ out, play s.cfg p s.busView s.answers = some out → out.Left s t := by
  have k := h ⟨rfl, rfl, rfl, rfl⟩ rfl rfl
  have left : ∀ {out : Played} {t : State}, out.Left s.beginCommand t → out.Left s t := fun h => ⟨h.hist, h.bus, h.ending⟩
  have ended : ∀ t, Over p s.beginCommand t → (∃ replies out, play s.cfg p s.busView replies = some out ∧ out.Left s t)
      ∧ ∀ out, play s.cfg p s.busView s.answers = some out → out.Left s t := by
    rintro t ⟨used, out, h1, h2, h3⟩
    simp only [show s.beginCommand.cfg = s.cfg from rfl, show s.beginCommand.busView = s.busView from rfl,
      show s.beginCommand.answers = s.answers from rfl] at h1 h2
    refine ⟨⟨used ++ [], out, by simpa using h1 [] [], left h3⟩, fun out' ho => ?_⟩
    obtain ⟨rest, hx⟩ := h2 [] out' (by simpa using ho)
    have := h1 [] rest
    rw [List.append_nil, ← hx, ho] at this
    cases this
    exact left h3
  rw [runCommand_admitted hc]
  cases hb : body s.beginCommand with
  | failed t => exact ⟨t, rfl, ended t (by rw [hb] at k; exact k)⟩
  | hung t => exact ⟨t, rfl, ended t (by rw [hb] at k; exact k)⟩
  | done t =>
    rw [hb] at k
    obtain ⟨⟨hsp, htp⟩, ha, used, events, hh, hp, hs⟩ := k
    simp only [show s.beginCommand.cfg = s.cfg from rfl, show s.beginCommand.busView = s.busView from rfl,
      show s.beginCommand.answers = s.answers from rfl] at hp hs
    have done : Played.Left { events := events, bus := t.busView, ending := .completed } s t.succeed :=
      ⟨hh, rfl, rfl, ha.fail, rfl, ha.err, hsp, htp⟩
    have hq : ∀ rs, play s.cfg p s.busView (used ++ rs)
        = some { events := events, bus := t.busView, ending := .completed } := fun rs => by
      simpa [play, Played.after] using hp [] rs
    refine ⟨t.succeed, rfl, ⟨used ++ [], _, hq [], done⟩, fun out ho => ?_⟩
    rw [hs [] out (by simpa using ho), hq] at ho
    cases ho
    exact done

end Sys2Proof.Machine
end

