-- ==== Sys2Proof/Tests/Slice0.lean ====
section
/-! SUPPORT. Tests: expected values are those of spec/95_test_vectors.md (the vector is named beside each), and a witness
for the hypotheses of every statement that has some. -/

namespace Sys2Proof.Tests

open Sys2Proof Sys2Proof.Machine Sys2Proof.Config

/-! ### Helpers -/

/-- The reference values of the parameters, with `PRESCALE_INIT = 0` as in the vectors. -/
def params : Params := { bitrateInit := 0x48, prescaleInit := 0, waitLimit := .inf, stopOnAbort := false }

/-- The same block with a finite `WAIT_LIMIT`. -/
def timed : Params := { params with waitLimit := .finite 99 }

/-- After `INIT`, with an environment that answers `answers`. -/
def ready (answers : List Reply) : State := { State.resetWith params with ctrl := 0x04, answers := answers }

/-- After `INIT`, in a phase and direction, with an environment that answers `answers`. -/
def inPhase (p : Phase) (d : Dir) (answers : List Reply) : State :=
  { ready answers with phase := p, dir := d }

/-- The calibration block of the sensor fixture (K1). -/
def calBytes : List Byte :=
  [0x70, 0x6B, 0x43, 0x67, 0x18, 0xFC, 0x7D, 0x8E, 0x43, 0xD6, 0xD0, 0x0B]
    ++ [0x27, 0x0B, 0x8C, 0x00, 0xF9, 0xFF, 0x8C, 0x3C, 0xF8, 0xC6, 0x70, 0x17]

/-- The coefficients of the sensor fixture (K1). -/
def calibration : Calib :=
  { t1 := 27504, t2 := 26435, t3 := -1000, p1 := 36477, p2 := -10685, p3 := 3024, p4 := 2855, p5 := 140, p6 := -7
    p7 := 15500, p8 := -14600, p9 := 6000 }

/-- The raw bytes of the sensor fixture. -/
def sample : Sample := { t0 := 0x7E, t1 := 0xED, t2 := 0x00, p0 := 0x65, p1 := 0x5A, p2 := 0xC0 }

/-- `INIT` and a calibration load are done. -/
def calibrated (answers : List Reply) : State := { ready answers with cal := calibration, calValid := true }

/-- A cycle is open. -/
def measuring (answers : List Reply) : State := { calibrated answers with measOk := true }

/-- Both raw codes and `T_FINE` are current. -/
def measured : State :=
  { measuring [] with
    rawT := 519888, rawP := 415148, tFine := 128422, rawTValid := true, rawPValid := true, tFineValid := true }

/-- A host write of a word comes next. -/
def written (s : State) (w : Word) : State := { s with inputs := [.hostWrite 0 w] }

/-- The command answers a next state of which `f` holds. -/
def After (o : Host.Outcome State Fault Refusal) (f : State → Bool) : Bool :=
  match o with
  | .next t => f t
  | .fault _ => false
  | .refused _ => false

/-! ### WellFormed -/

theorem test_wf_refuses_count_zero : Instr.wf (.rburst 0x77 0x88 0) = false := by decide
theorem test_wf_takes_count_255 : Instr.wf (.rburst 0x7F 0xFF 255) = true := by decide

/-! ### Decoding (E1 to E28), words written out from R101 and R103 -/

theorem test_decode_init : decode 0x01000000#32 = .ok .init := by decide
theorem test_decode_start : decode 0x02000000#32 = .ok .start := by decide
theorem test_decode_rstart : decode 0x03000000#32 = .ok .rstart := by decide
theorem test_decode_stop : decode 0x04000000#32 = .ok .stop := by decide
theorem test_decode_wrb : decode 0x050000EE#32 = .ok (.wrb 0xEE) := by decide
theorem test_decode_rdb : decode 0x06000001#32 = .ok (.rdb true) ∧ decode 0x06000000#32 = .ok (.rdb false) := by decide
theorem test_decode_stat : decode 0x07000000#32 = .ok .stat := by decide
theorem test_decode_wreg : decode 0x1077F425#32 = .ok (.wreg 0x77 0xF4 0x25) := by decide
theorem test_decode_rreg : decode 0x1177D000#32 = .ok (.rreg 0x77 0xD0) := by decide
theorem test_decode_rburst : decode 0x12778818#32 = .ok (.rburst 0x77 0x88 24) := by decide
theorem test_decode_ldcal : decode 0x20770000#32 = .ok (.ldcal 0x77) := by decide
theorem test_decode_reqm : decode 0x21770000#32 = .ok (.reqm 0x77) := by decide
theorem test_decode_rdrt : decode 0x22770000#32 = .ok (.rdrt 0x77) := by decide
theorem test_decode_rdrp : decode 0x23770000#32 = .ok (.rdrp 0x77) := by decide
theorem test_decode_cmpt : decode 0x24000000#32 = .ok .cmpt := by decide
theorem test_decode_cmpp : decode 0x25000000#32 = .ok .cmpp := by decide
theorem test_decode_sinit : decode 0x26770000#32 = .ok (.sinit 0x77) := by decide
theorem test_decode_sread : decode 0x27770000#32 = .ok (.sread 0x77) := by decide

/-- E20 to E28. -/
theorem test_decode_illegal :
    decode 0x00000000#32 = .error (.unknownOpcode 0x00) ∧ decode 0x28000000#32 = .error (.unknownOpcode 0x28)
    ∧ decode 0x12778800#32 = .error .zeroCount ∧ decode 0x06000002#32 = .error (.unusedBitSet 0x06)
    ∧ decode 0x10F7F425#32 = .error (.unusedBitSet 0x10) ∧ decode 0x1177D001#32 = .error (.unusedBitSet 0x11)
    ∧ decode 0x02000001#32 = .error (.unusedBitSet 0x02) ∧ decode 0x20770100#32 = .error (.unusedBitSet 0x20)
    ∧ decode 0x05000100#32 = .error (.unusedBitSet 0x05) := by decide

/-! ### One step of every command -/

/-- Z7. -/
theorem test_init : After (exec .init (State.resetWith params)) (fun t =>
    t.hstat == 5#32 && t.ctrl == 0x04#8 && t.status == 0xF8#8 && t.bitrate == 0x48#8) = true := by decide

/-- B4: a start on an owned bus is a repeated start. -/
theorem test_start : After (exec .start (inPhase .started .w [.done])) (fun t =>
    t.hstat == 0x0405#32 && t.ctrl == 0xA4#8 && t.status == 0x10#8 && t.hist == [.repStart]) = true := by decide

/-- B3: RSTART on a free bus is a first start. -/
theorem test_rstart : After (exec .rstart (inPhase .stopped .w [.done])) (fun t =>
    t.hstat == 0x0405#32 && t.ctrl == 0xA4#8 && t.status == 0x08#8 && t.hist == [.start]) = true := by decide

/-- B7c and B1: a stop on an owned bus, and one with nothing to stop. -/
theorem test_stop : After (exec .stop (inPhase .dataPhase .w [.done])) (fun t =>
    t.hstat == 0x1005#32 && t.ctrl == 0x04#8 && t.status == 0xF8#8 && t.hist == [.stop]) = true
    ∧ After (exec .stop (ready [])) (fun t => t.hstat == 0x1005#32 && t.ctrl == 0x04#8 && t.hist == []) = true := by
  decide

/-- B6: the address byte. -/
theorem test_wrb_address : After (exec (.wrb 0xEE) (inPhase .started .w [.ack])) (fun t =>
    t.hstat == 0x0805#32 && t.ctrl == 0x84#8 && t.status == 0x18#8 && t.data == 0xEE#8) = true := by decide

/-- B18: a send that is never answered, under a finite limit. -/
theorem test_wrb_timeout : After (exec (.wrb 0xEE) { inPhase .started .w [.never] with cfg := timed }) (fun t =>
    t.hstat == 0x0406#32 && t.err == 3#32 && t.ctrl == 0x04#8 && t.status == 0xF8#8 && t.data == 0xEE#8) = true := by
  decide

/-- B15: a byte received and not acknowledged. -/
theorem test_rdb : After (exec (.rdb false) (inPhase .addrSent .r [.byte 0xFF])) (fun t =>
    t.hstat == 0x2C05#32 && t.result == 0xFF#8 && t.ctrl == 0x84#8 && t.status == 0x58#8 && t.data == 0xFF#8) = true := by
  decide

/-- B22: arbitration lost while receiving. -/
theorem test_rdb_arbLost : After (exec (.rdb true) { inPhase .addrSent .r [.arbLost] with data := 0xEF }) (fun t =>
    t.hstat == 0x0005#32 && t.ctrl == 0xC4#8 && t.status == 0x38#8 && t.data == 0xEF#8) = true := by decide

/-- B4s: the status code, prescaler bits masked off (R138). -/
theorem test_stat : After (exec .stat { ready [] with status := 0x13 }) (fun t =>
    t.result == 0x10#8 && t.status == 0x13#8) = true := by decide

/-- X1. -/
theorem test_wreg : After (exec (.wreg 0x77 0xF4 0x25) (ready ackedWrite)) (fun t =>
    t.hstat == 0x1005#32 && t.hist == [.start, .tx 0xEE true, .tx 0xF4 true, .tx 0x25 true, .stop]
      && t.data == 0x25#8 && t.status == 0xF8#8) = true := by decide

/-- X4: the register byte is not acknowledged. -/
theorem test_wreg_nack : After (exec (.wreg 0x77 0xF4 0x25) (ready [.done, .ack, .nack])) (fun t =>
    t.hstat == 0x0C06#32 && t.err == 0x03302831#32 && t.status == 0x30#8 && t.hist.length == 3) = true := by decide

/-- X2a. -/
theorem test_rreg : After (exec (.rreg 0x77 0xD0) (ready (ackedRead [0xA5]))) (fun t =>
    t.hstat == 0x1005#32 && t.result == 0xA5#8 && t.rxbuf.read 0 == 0xA5#8 && t.rxLen == 1#8
      && t.hist == [.start, .tx 0xEE true, .tx 0xD0 true, .repStart, .tx 0xEF true, .rx 0xA5 false, .stop]) = true := by
  decide

/-- X8: the read address is not acknowledged. -/
theorem test_rreg_nack : After (exec (.rreg 0x77 0xD0) (ready [.done, .ack, .ack, .done, .nack])) (fun t =>
    t.hstat == 0x2806#32 && t.err == 0x06484021#32 && t.rxLen == 0#8) = true := by decide

/-- X2c. -/
theorem test_rburst : After (exec (.rburst 0x77 0xF7 3) (ready (ackedRead [0x65, 0x5A, 0xC0]))) (fun t =>
    t.hstat == 0x1005#32 && t.result == 0xC0#8 && t.rxbuf == [(0, 0x65), (1, 0x5A), (2, 0xC0)] && t.rxLen == 3#8)
      = true := by decide

/-- X9: arbitration lost at the second receive. -/
theorem test_rburst_arbLost : After (exec (.rburst 0x77 0xF7 3)
    (ready [.done, .ack, .ack, .done, .ack, .byte 0x65, .arbLost])) (fun t =>
    t.hstat == 0x0006#32 && t.err == 0x07385031#32 && t.result == 0x65#8 && t.rxbuf == [(0, 0x65)] && t.rxLen == 0#8
      && t.ctrl == 0xC4#8) = true := by decide

/-- L1. -/
theorem test_ldcal : After (exec (.ldcal 0x77) (ready (ackedRead calBytes))) (fun t =>
    t.hstat == 0x100D#32 && t.cal == calibration && t.rxLen == 24#8 && t.hist.length == 30) = true := by
  decide +kernel

/-- L2: no device. -/
theorem test_ldcal_nack : After (exec (.ldcal 0x77) (ready [.done, .nack])) (fun t =>
    t.hstat == 0x0806#32 && t.err == 0x02201822#32 && t.calValid == false) = true := by decide

/-- L6. -/
theorem test_reqm : After (exec (.reqm 0x77) (calibrated ackedWrite)) (fun t =>
    t.hstat == 0x101D#32 && t.hist == [.start, .tx 0xEE true, .tx 0xF4 true, .tx 0x25 true, .stop]) = true := by decide

/-- L7. -/
theorem test_rdrt : After (exec (.rdrt 0x77) (measuring (ackedRead [0x7E, 0xED, 0x00]))) (fun t =>
    t.hstat == 0x103D#32 && t.rawT == 519888#20 && t.rxLen == 3#8) = true := by decide

/-- L9: no cycle is open. -/
theorem test_rdrt_refused : After (exec (.rdrt 0x77) (calibrated [])) (fun t =>
    t.hstat == 0x000E#32 && t.err == 7#32) = true := by decide

/-- L8, from a state without a raw temperature. -/
theorem test_rdrp : After (exec (.rdrp 0x77) (measuring (ackedRead [0x65, 0x5A, 0xC0]))) (fun t =>
    t.hstat == 0x105D#32 && t.rawP == 415148#20 && t.result == 0xC0#8) = true := by decide

/-- T1. -/
theorem test_cmpt : After (exec .cmpt { measured with tFine := 0, tFineValid := false }) (fun t =>
    t.temp == 2508#32 && t.tFine == 128422#32 && t.tFineValid && t.ok) = true := by decide

/-- T6: both products wrap; T11: a negative result rounds toward minus infinity. -/
theorem test_comp_T_wraps : compTFine 1048575 0 32767 32767 = (-144 : Word) ∧ compTemp (-144 : Word) = 4294967293#32
    ∧ compTemp (compTFine 519888 27504 0 (-1000)) = 4294967289#32 := by decide

/-- Q1. -/
theorem test_cmpp : After (exec .cmpp measured) (fun t => t.press == 100656#32 && !t.divg && t.ok) = true := by decide

/-- Q4 and Q5: the two sides of the branch at 2^31; Q3: the guard with `P1 = 1`; Q10: a negative denominator. -/
theorem test_comp_P_corners : compP 315698 128422 calibration = (117873#32, false)
    ∧ compP 315699 128422 calibration = (117874#32, false)
    ∧ compP 415148 128422 { calibration with p1 := 1 } = (0#32, true)
    ∧ compP 415148 128422 (Calib.mk 0 0 0 65535 32767 32767 32767 32767 32767 32767 32767 32767) = (2047#32, false) := by
  decide

/-- The example of R253: ten cycles from the seed 0. -/
theorem test_sinit : After (exec (.sinit 0x77)
    (ready (ackedRead calBytes ++ (List.replicate 10 sample).flatMap Sample.replies))) (fun t =>
    t.hstat == 0x10FD#32 && t.rdT == 2505#32 && t.rdP == 100557#32 && t.hist.length == 260) = true := by
  decide +kernel

/-- The example of R255: no device, seed (1111, 2222). -/
theorem test_sinit_nack : After (exec (.sinit 0x77) { ready [.done, .nack] with rdT := 1111, rdP := 2222 }) (fun t =>
    t.hstat == 0x0806#32 && t.err == 0x12201822#32 && t.rdT == 1111#32 && t.rdP == 2222#32) = true := by decide

/-- The example of R252. -/
theorem test_sread : After (exec (.sread 0x77) (calibrated sample.replies)) (fun t =>
    t.hstat == 0x10FD#32 && t.rdT == 2508#32 && t.rdP == 100656#32 && t.rawT == 519888#20 && t.hist.length == 23
      && t.rxLen == 3#8 && t.result == 0xC0#8) = true := by decide +kernel

/-- The held-bus hazard inside SREAD (R304): step S2 fails at T1. -/
theorem test_sread_held : After (exec (.sread 0x77) { calibrated [.done] with phase := .addrSent }) (fun t =>
    t.err == 0x21100811#32 && t.phase == .started && t.hist == [.repStart]) = true := by decide

/-! ### The step -/

/-- X14: a hang leaves the command unfinished; a read is served, a write is not. -/
theorem test_hang : After (step (written (ready [.done, .never]) 0x1077F425#32)) (fun t =>
    t.hstat == 0x0604#32 && t.err == 0#32 && t.tpc == .t2 && t.hist == [.start]
      && After (step { t with inputs := [.hostRead 1] }) (fun u => u.hostLog == [(1, 0x0604#32)])
      && After (step { t with inputs := [.hostWrite 0 0x01000000#32] }) (fun u => u == t)) = true := by decide

/-- Z2: an illegal word before INIT. -/
theorem test_illegal_word : After (step (written (State.resetWith params) 0#32)) (fun t =>
    t.hstat == 2#32 && t.err == 4#32) = true := by decide

/-- X13 and X11: `STOP_ON_ABORT = true`. -/
theorem test_stop_on_abort :
    After (exec (.wreg 0x77 0xF4 0x25)
      { ready [.done, .never, .done] with cfg := { timed with stopOnAbort := true } }) (fun t =>
      t.hstat == 0x1006#32 && t.err == 0x02000023#32 && t.hist == [.start, .stop]) = true
    ∧ After (exec (.rreg 0x76 0xD0)
      { ready [.done, .nack, .done] with cfg := { params with stopOnAbort := true } }) (fun t =>
      t.hstat == 0x1006#32 && t.err == 0x02201821#32 && t.hist == [.start, .tx 0xEC false, .stop]) = true := by decide

/-! ### Witnesses: states and operands that meet the hypotheses of the statements, one per clause -/

theorem witness_StepRunsDecodedCommand : let s := written (ready []) 0x07000000#32
    decode 0x07000000#32 = .ok .stat ∧ s.busy = false ∧ s.inputs = .hostWrite 0 0x07000000#32 :: [] := by decide

theorem witness_IllegalWordIsRefusedWithoutEffect : let s := written (ready []) 0x12778800#32
    s.busy = false ∧ s.spc = .s0 ∧ s.tpc = .t0 ∧ s.inputs = .hostWrite 0 0x12778800#32 :: []
      ∧ decode 0x12778800#32 = .error .zeroCount := by decide

theorem witness_ResetValues : let s := { inPhase .started .w [] with busy := true, inputs := [.reset] }
    s.inputs = .reset :: [] := by decide

theorem witness_AfterResetOnlyInitSucceeds :
    decode 0#32 = .error (.unknownOpcode 0) ∧ (decode 0x27770000#32 = .ok (.sread 0x77) ∧ Instr.sread 0x77 ≠ .init)
      ∧ decode 0x01000000#32 = .ok .init := by decide

/-- The register numbers at the ends of the three mapped ranges, and the two that the host writes. -/
theorem witness_HostAccesses : let mapped := fun n : Nat => n ≤ 17 ∨ (32 ≤ n ∧ n ≤ 43) ∨ (256 ≤ n ∧ n ≤ 510)
    mapped 0 ∧ mapped 14 ∧ mapped 15 ∧ mapped 17 ∧ mapped 32 ∧ mapped 43 ∧ mapped 256 ∧ mapped 510
      ∧ { ready [] with inputs := [.hostRead 510] }.inputs = .hostRead 510 :: []
      ∧ ((ready []).busy = false ∧ { ready [] with inputs := [.hostWrite 14 7] }.inputs = .hostWrite 14 7 :: []
        ∧ 14 ≠ 0) := by decide

/-- The unmapped register numbers at the ends of their ranges. -/
theorem witness_UnmappedAccessIsRefused :
    let unmapped := fun n : Nat => (18 ≤ n ∧ n ≤ 31) ∨ (44 ≤ n ∧ n ≤ 255) ∨ 511 ≤ n
    unmapped 18 ∧ unmapped 31 ∧ unmapped 44 ∧ unmapped 255 ∧ unmapped 511
      ∧ { ready [] with inputs := [.hostRead 18] }.inputs = .hostRead 18 :: []
      ∧ (ready []).busy = false ∧ { ready [] with inputs := [.hostWrite 511 0] }.inputs = .hostWrite 511 0 :: [] := by
  decide

theorem witness_OnlyResetEndsAHang :
    (∃ t, step { ready [] with busy := true, inputs := [.hostRead 1] } = .next t) ∧ { ready [] with busy := true }.busy = true
      ∧ { ready [] with busy := true }.inputs = [] := ⟨⟨_, rfl⟩, rfl, rfl⟩

theorem witness_DecodeOfEncode : Instr.wf (.rburst 0x7F 0xFF 1) = true := by decide
theorem witness_EncodeOfDecode : decode 0x127FFFFF#32 = .ok (.rburst 0x7F 0xFF 255) := by decide

theorem witness_RefusalsInOrder :
    ((State.resetWith params).en = false ∧ Instr.cmpt ≠ .init)
      ∧ ((ready []).en = true ∧ (ready []).calValid = false ∧ (ready []).busy = false ∧ (ready []).spc = .s0
        ∧ (ready []).tpc = .t0)
      ∧ ¬ ((ready []).owned = true ∧ ((ready []).phase = .started ∨ (ready []).dir = .w))
      ∧ ¬ ((inPhase .addrSent .r []).owned = true
        ∧ ((inPhase .addrSent .r []).phase = .started ∨ (inPhase .addrSent .r []).dir = .w))
      ∧ ¬ (((inPhase .addrSent .w []).phase = .addrSent ∨ (inPhase .addrSent .w []).phase = .dataPhase)
        ∧ (inPhase .addrSent .w []).dir = .r)
      ∧ (calibrated []).measOk = false ∧ (calibrated []).calValid = true ∧ (calibrated []).rawTValid = false
      ∧ { measured with tFineValid := false }.rawPValid = true := by decide

theorem witness_EveryCommandAnswers :
    { ready [] with cfg := timed }.cfg.waitLimit = .finite 99 ∧ (ready []).cfg.waitLimit = .inf
      ∧ After (exec .stat (ready [])) (fun t => !t.busy) = true
      ∧ After (exec .start (ready [.never])) (fun t => t.busy) = true := by decide

theorem witness_StartAndRstartResult :
    ((ready [.done]).en = true ∧ (ready [.done]).owned = false ∧ (ready [.done]).startReply = .done)
      ∧ ((inPhase .addrSent .r [.done]).owned = true ∧ (inPhase .addrSent .r [.done]).startReply = .done)
      ∧ (ready [.busErr]).startReply = .busErr := by decide

theorem witness_StopResult :
    ((inPhase .started .w [.done]).en = true ∧ (inPhase .started .w [.done]).owned = true
        ∧ (inPhase .started .w [.done]).stopReply = .done)
      ∧ (ready []).owned = false := by decide

theorem witness_WrbResult :
    ((inPhase .started .w [.nack]).en = true ∧ (inPhase .started .w [.nack]).owned = true
        ∧ (inPhase .started .w [.nack]).sendReply 0xEF = .nack ∧ (inPhase .started .w [.nack]).phase = .started)
      ∧ ((inPhase .addrSent .w [.ack]).sendReply 0xF4 = .ack ∧ (inPhase .addrSent .w [.ack]).dir = .w
        ∧ (inPhase .addrSent .w [.ack]).phase ≠ .started)
      ∧ (inPhase .started .w [.arbLost]).sendReply 0 = .arbLost
      ∧ (inPhase .started .w [.busErr]).sendReply 0 = .busErr := by decide

theorem witness_RdbResult :
    ((inPhase .addrSent .r [.byte 0xA5]).en = true ∧ (inPhase .addrSent .r [.byte 0xA5]).phase = .addrSent
        ∧ (inPhase .addrSent .r [.byte 0xA5]).dir = .r ∧ (inPhase .addrSent .r [.byte 0xA5]).recvReply true = .byte 0xA5)
      ∧ (inPhase .dataPhase .r [.arbLost]).recvReply false = .arbLost
      ∧ (inPhase .dataPhase .r [.busErr]).recvReply false = .busErr := by decide

theorem witness_StatResult : (ready []).en = true := by decide

theorem witness_PrimitiveNeverAnswered :
    (ready [.never]).startReply = .never
      ∧ ((inPhase .dataPhase .w [.never]).owned = true ∧ (inPhase .dataPhase .w [.never]).stopReply = .never)
      ∧ ((inPhase .dataPhase .w [.never]).dir = .w ∧ (inPhase .dataPhase .w [.never]).sendReply 0xEE = .never)
      ∧ ((inPhase .dataPhase .r [.never]).dir = .r ∧ (inPhase .dataPhase .r [.never]).recvReply true = .never)
      ∧ (inPhase .dataPhase .r [.never]).en = true := by decide

theorem witness_PrimitiveFrame : (∃ t, exec .init (ready []) = .next t) ∧ (∃ t, exec .start (ready [.done]) = .next t)
      ∧ (∃ t, exec .stop (ready []) = .next t) ∧ (∃ t, exec (.wrb 1) (inPhase .started .w [.ack]) = .next t)
      ∧ (∃ t, exec (.rdb true) (inPhase .addrSent .r [.byte 1]) = .next t) ∧ ∃ t, exec .stat (ready []) = .next t :=
  ⟨⟨_, rfl⟩, ⟨_, rfl⟩, ⟨_, rfl⟩, ⟨_, rfl⟩, ⟨_, rfl⟩, ⟨_, rfl⟩⟩

theorem witness_WregCompletes : (ready ackedWrite).en = true ∧ (ready ackedWrite).owned = false
      ∧ (ready ackedWrite).answers = ackedWrite ++ [] := by decide

theorem witness_ReadsComplete : let s := ready (ackedRead [0x65])
    s.en = true ∧ s.owned = false ∧ [0x65#8].length = (1#8).toNat ∧ 1#8 ≠ 0#8
      ∧ s.answers = ackedRead [0x65] ++ [] := by decide

/-- The largest count. -/
theorem witness_ReadsComplete_255 : (List.replicate 255 (0#8 : Byte)).length = (255#8).toNat ∧ 255#8 ≠ 0#8 :=
  ⟨by rw [List.length_replicate]; rfl, by decide⟩

theorem witness_StoredBytesAreReadBack : Memory.wf [(0, 1#8)] = true ∧ 252 + [1#8, 2#8, 3#8].length ≤ 255 ∧ 2 < 3
      ∧ (251 < 252 ∨ 252 + 3 ≤ 251) := by decide

theorem witness_PrimitivesBuildRreg : let s := ready (ackedRead [0xA5])
    s.en = true ∧ s.owned = false ∧ s.rxbuf.wf = true ∧ s.answers = ackedRead [0xA5] ++ [] := by decide

/-! `play` on its own, against R272 (an unanswered address), R255 (the calibration read), X13 (a timeout, then the stop of
the abort), R281 (a hang), R277 (the stop's own timeout is dropped, or hangs), R251 and R253 (23 and 260 events). -/

theorem test_play_nack : (play params (busPlan (.rreg 0x76 0xD0)) (ready []).busView [.done, .nack]).map Played.ending
      = some (.failed 0x02201821#32)
    ∧ (play params (busPlan (.sinit 0x77)) (ready []).busView [.done, .nack]).map Played.ending
      = some (.failed 0x12201822#32) := by decide

theorem test_play_timeout : play { timed with stopOnAbort := true } (busPlan (.wreg 0x77 0xF4 0x25)) (ready []).busView
      [.done, .never, .done]
    = some { events := [.start, .stop], bus := { phase := 4, ctrl := 0x04, code := 0xF8 }, ending := .failed 0x02000023#32 }
    := by decide

theorem test_play_hang : play params (busPlan (.wreg 0x77 0xF4 0x25)) (ready []).busView [.done, .never]
    = some { events := [.start], bus := { phase := 1, ctrl := 0x04, code := 0xF8 }, ending := .hangs 0 2 } := by decide

theorem test_play_dropped : ∀ c : Bool,
    (play { waitLimit := if c then .inf else .finite 0, stopOnAbort := true, bitrateInit := 0, prescaleInit := 0 }
      (busPlan (.rreg 0x76 0xD0)) (ready []).busView [.done, .nack, .never]).map Played.ending
    = some (if c then .hangsInStop else .failed 0x02201821#32) := by decide

theorem test_play_length : (play params (busPlan (.sread 0x77)) (ready []).busView sample.replies).map
      (fun p => (p.events.length, p.ending)) = some (23, .completed)
    ∧ (play params (busPlan (.sinit 0x77)) (ready []).busView
        (ackedRead calBytes ++ (List.replicate 10 sample).flatMap Sample.replies)).map
      (fun p => (p.events.length, p.ending)) = some (260, .completed) := by decide +kernel

theorem witness_TransactionsFollowTheStepTables : maySequence (ready []) (.wreg 0x77 1 2)
      ∧ maySequence (ready []) (.rreg 0x77 1) ∧ maySequence (ready []) (.rburst 0x77 1 255)
      ∧ maySequence (ready []) (.ldcal 0x77) ∧ maySequence (ready []) (.reqm 0x77)
      ∧ maySequence (measuring []) (.rdrt 0x77) ∧ maySequence (measuring []) (.rdrp 0x77)
      ∧ maySequence (calibrated []) (.sread 0x77) ∧ maySequence (ready []) (.sinit 0x77)
      ∧ (play (ready []).cfg (busPlan (.rburst 0x77 1 255)) (ready []).busView [.never]).isSome = true
      ∧ (ready [.done, .nack]).cfg.stopOnAbort = false
      ∧ ∃ t, exec (.wreg 0x77 1 2) (ready [.done, .nack]) = .next t :=
  ⟨rfl, rfl, ⟨rfl, by decide⟩, rfl, rfl, ⟨rfl, rfl⟩, ⟨rfl, rfl⟩, ⟨rfl, rfl⟩, rfl, by decide, rfl, _, rfl⟩

theorem witness_HeldBusAbortsTransactions : let s := { measuring [.done] with phase := .dataPhase }
    s.en = true ∧ s.owned = true ∧ s.startReply = .done ∧ s.cfg.stopOnAbort = false ∧ s.measOk = true
      ∧ s.calValid = true ∧ 255#8 ≠ 0#8 := by decide

theorem witness_HeldBusAbortsTransactions_stop : ∀ r ∈ [Reply.done, Reply.never], ∀ w ∈ [WaitLimit.inf, WaitLimit.finite 0],
    let s := { measuring [.done, r] with
      phase := .dataPhase, cfg := { params with stopOnAbort := true, waitLimit := w } }
    s.en = true ∧ s.owned = true ∧ s.cfg.stopOnAbort = true ∧ s.cfg.waitLimit = w ∧ s.answers = .done :: r :: [] := by
  decide

theorem witness_FailedReadMarksBufferInvalid : (measuring [.done, .nack]).en = true ∧ (measuring []).measOk = true
      ∧ After (exec (.rreg 0x77 1) (measuring [.done, .nack])) (fun t => !t.ok) = true
      ∧ After (exec (.rburst 0x77 1 2) (measuring [.done, .nack])) (fun t => !t.ok) = true
      ∧ After (exec (.ldcal 0x77) (measuring [.done, .nack])) (fun t => !t.ok) = true
      ∧ After (exec (.rdrp 0x77) (measuring [.never])) (fun t => !t.ok) = true := by decide

theorem witness_TransactionFrame : (∃ t, exec (.wreg 0x77 1 2) (ready ackedWrite) = .next t)
      ∧ (∃ t, exec (.rreg 0x77 1) (ready [.done, .nack]) = .next t)
      ∧ ∃ t, exec (.rburst 0x77 1 255) (ready [.done, .nack]) = .next t := ⟨⟨_, rfl⟩, ⟨_, rfl⟩, ⟨_, rfl⟩⟩

theorem witness_LdcalCompletes : let s := ready (ackedRead calBytes)
    s.en = true ∧ s.owned = false ∧ s.rxbuf.wf = true ∧ calBytes.length = 24 ∧ s.answers = ackedRead calBytes ++ [] := by
  decide

theorem witness_SensorAccessFailures : (measuring [.done, .nack]).en = true ∧ (measuring [.done, .nack]).measOk = true
      ∧ After (exec (.ldcal 0x77) (measuring [.done, .nack])) (fun t => !t.ok) = true
      ∧ After (exec (.reqm 0x77) (measuring [.done, .nack])) (fun t => !t.ok) = true
      ∧ After (exec (.rdrt 0x77) (measuring [.done, .nack])) (fun t => !t.ok) = true
      ∧ After (exec (.rdrp 0x77) (measuring [.done, .nack])) (fun t => !t.ok) = true := by decide

theorem witness_ReqmCompletes : (measuring ackedWrite).en = true ∧ (measuring ackedWrite).owned = false
      ∧ (measuring ackedWrite).answers = ackedWrite ++ [] := by decide

theorem witness_RawReadsComplete : let s := measuring (ackedRead [0x7E, 0xED, 0x00])
    s.en = true ∧ s.owned = false ∧ s.measOk = true ∧ s.rxbuf.wf = true
      ∧ s.answers = ackedRead [0x7E, 0xED, 0x00] ++ [] := by decide

theorem witness_SensorAccessFrame : (∃ t, exec (.ldcal 0x77) (ready [.done, .nack]) = .next t)
      ∧ (∃ t, exec (.reqm 0x77) (ready ackedWrite) = .next t)
      ∧ (∃ t, exec (.rdrt 0x77) (measuring [.done, .nack]) = .next t)
      ∧ ∃ t, exec (.rdrp 0x77) (measuring [.done, .nack]) = .next t := ⟨⟨_, rfl⟩, ⟨_, rfl⟩, ⟨_, rfl⟩, ⟨_, rfl⟩⟩

theorem witness_Arithmetic : 0 ≤ 31 ∧ 31 ≤ 31 ∧ (4294967295#32 : Word) ≠ 0#32 := by decide

theorem witness_PressureIsTheIntegerRoutine : { calibration with p1 := 0 }.p1 = 0#16
      ∧ (compP 415148 128422 { calibration with p1 := 1 }).2 = true := by decide

theorem witness_CmptResult : measured.en = true ∧ measured.calValid = true ∧ measured.rawTValid = true := by decide

theorem witness_CmppResult : measured.en = true ∧ measured.calValid = true ∧ measured.rawPValid = true
      ∧ measured.tFineValid = true := by decide

theorem witness_CompensationFrame : (∃ t, exec .cmpt measured = .next t) ∧ ∃ t, exec .cmpp measured = .next t :=
  ⟨⟨_, rfl⟩, ⟨_, rfl⟩⟩

/-- The clauses at a sample equal to, above, just below and just above the old value, and at the largest sum. -/
theorem witness_RunningAverage : let small := fun a b : Word => a.toNat + b.toNat < 4294967296
    (small 5 5 ∧ (5#32).toNat ≤ (5#32).toNat) ∧ (small 0 4294967295 ∧ (0#32).toNat ≤ (4294967295#32).toNat)
      ∧ (small 4294967295 0 ∧ (0#32).toNat < (4294967295#32).toNat)
      ∧ (small 6 5 ∧ (6#32).toNat = (5#32).toNat + 1) ∧ (small 5 6 ∧ (5#32).toNat + 1 = (6#32).toNat) := by decide

theorem witness_SreadCompletes : let s := calibrated sample.replies
    s.en = true ∧ s.owned = false ∧ s.calValid = true ∧ s.rxbuf.wf = true ∧ s.answers = sample.replies ++ [] := by decide

theorem witness_SinitCompletes : let cs := List.replicate 10 sample
    let s := ready (ackedRead calBytes ++ cs.flatMap Sample.replies ++ [])
    s.en = true ∧ s.owned = false ∧ s.rxbuf.wf = true ∧ calBytes.length = 24 ∧ cs.length = 10
      ∧ s.answers = ackedRead calBytes ++ cs.flatMap Sample.replies ++ [] := ⟨rfl, rfl, rfl, rfl, rfl, rfl⟩

theorem witness_Cycles : (∃ t, exec (.sread 0x77) (calibrated [.done, .nack]) = .next t)
      ∧ ∃ t, exec (.sinit 0x77) (ready [.done, .nack]) = .next t := ⟨⟨_, rfl⟩, ⟨_, rfl⟩⟩

/-- The statements about every step that is no Reset. -/
theorem witness_everyStep : let s := written (calibrated ackedWrite) 0x1077F425#32
    (∃ t, step s = .next t) ∧ (∀ rest, s.inputs ≠ .reset :: rest) ∧ s.en = true ∧ s.calValid = true :=
  ⟨⟨_, rfl⟩, by simp [written], rfl, rfl⟩

/-- The invariants hold in a state in which a command has work to do, and it answers a next state. -/
theorem witness_invariants : let s := { measured with inputs := [.hostWrite 0 0x25000000#32] }
    s.BufferInv ∧ s.CounterInv ∧ s.RegisterInv ∧ s.OwnershipInv ∧ s.CycleInv ∧ s.OutcomeInv ∧ s.ErrorInv
      ∧ ∃ t, step s = .next t :=
  ⟨rfl, ⟨by decide, .inl rfl⟩, ⟨rfl, rfl, .noInfo, rfl⟩, ⟨rfl, by decide⟩,
    ⟨fun _ => rfl, fun _ => rfl, fun _ => ⟨rfl, rfl⟩⟩, ⟨fun _ => ⟨rfl, rfl⟩, by decide, by decide, fun _ => rfl⟩,
    ⟨.inl rfl, by decide⟩, ⟨_, rfl⟩⟩

theorem witness_BusAndFlagsUntouchedBeforeInit : let s := written (State.resetWith params) 0x02000000#32
    s.EnableInv ∧ s.en = false ∧ ∃ t, step s = .next t := ⟨fun _ => ⟨rfl, rfl, rfl, rfl⟩, rfl, _, rfl⟩

end Sys2Proof.Tests
end

section
/-! SUPPORT. Reset: the values of the reset state (spec/10_state.md R46) and the step that takes a Reset
(spec/70_reset_and_hazards.md R300). -/

namespace Sys2Proof.Machine

open Sys2Proof.Config

@[simp] theorem flagBit_false (n : Nat) : flagBit false n = 0#32 := by simp [flagBit]

@[simp] theorem ofU16_zero : ofU16 0#16 = 0#32 := rfl

@[simp] theorem ofI16_zero : ofI16 0#16 = 0#32 := by simp [ofI16]

/-- A coefficient of 0 reads as 0, whether it is unsigned (T1, P1) or sign-extended (the rest). -/
theorem Calib.hostWord_zero (k : Nat) (h : k < 12) : Calib.zero.hostWord k = some 0#32 := by
  interval_cases k <;> simp [Calib.hostWord, Calib.zero]

@[simp] theorem State.en_resetWith (cfg : Params) : (State.resetWith cfg).en = false := by
  simp [State.en, State.resetWith]

/-- Every flag is false, `Idle` is 0 and `W` is 0 (R25, R32). -/
@[simp] theorem State.hstat_resetWith (cfg : Params) : (State.resetWith cfg).hstat = 0#32 := by
  rw [State.hstat, State.en_resetWith]
  simp [State.resetWith, Phase.code, Dir.code]

theorem State.resetWith_atReset (cfg : Params) : (State.resetWith cfg).AtReset where
  ctrl := rfl
  status := rfl
  data := rfl
  bitrate := rfl
  phase := rfl
  dir := rfl
  result := rfl
  rxbuf := Memory.read_nil
  rxLen := rfl
  idx := rfl
  cmd := rfl
  hstat := State.hstat_resetWith cfg
  err := rfl
  labels := ⟨rfl, rfl⟩
  cyc := rfl
  cal := Calib.hostWord_zero
  raw := ⟨rfl, rfl⟩
  tFine := rfl
  temp := rfl
  press := rfl
  reading := ⟨rfl, rfl⟩
  averages := ⟨rfl, rfl⟩
  hist := rfl

/-- What a Reset keeps is the outside's (log entry 6), and `AtReset` speaks of none of it. -/
theorem State.takeReset_atReset (s : State) (rest : List Input) : (s.takeReset rest).AtReset :=
  { State.resetWith_atReset s.cfg with }

/-- A Reset is taken before BUSY is looked at, so a hanging command does not hold it up (R281, R300). -/
theorem step_of_reset {s : State} {rest : List Input} (h : s.inputs = .reset :: rest) :
    step s = .next (s.takeReset rest) := by
  simp [step, fetch, h]

/-- Settles O3: the reset state has the values of R46, and a step that takes a Reset ends in it but for the outside. -/
theorem resetValues : Obligations.ResetValues := by
  unfold Obligations.ResetValues
  exact ⟨State.resetWith_atReset, fun s rest h => ⟨s.takeReset rest, step_of_reset h, s.takeReset_atReset rest⟩⟩

end Sys2Proof.Machine
end

section
/-! SUPPORT. The unmapped register numbers: an access to one has no value and no step (spec/20_memory.md R74). -/

namespace Sys2Proof.Machine

/-- Above the named registers only the coefficients and RXBUF are left (R71). -/
theorem State.hostRead_add_18 (s : State) (n : Nat) :
    s.hostRead (n + 18) =
      if 32 ≤ n + 18 ∧ n + 18 ≤ 43 then s.cal.hostWord (n + 18 - 32)
      else if 256 ≤ n + 18 ∧ n + 18 ≤ 510 then some ((s.rxbuf.read (n + 18 - 256)).setWidth 32)
      else none := rfl

/-- The seed registers 14 and 15 are the only ones a write changes (R73), and both lie below 18. -/
theorem State.hostWrite_add_18 (s : State) (n : Nat) (v : Word) :
    s.hostWrite (n + 18) v = (s.hostRead (n + 18)).map fun _ => s := rfl

section
variable {n : Nat} (hn : (18 ≤ n ∧ n ≤ 31) ∨ (44 ≤ n ∧ n ≤ 255) ∨ 511 ≤ n)
include hn

theorem State.hostRead_unmapped (s : State) : s.hostRead n = none := by
  obtain ⟨m, rfl⟩ : ∃ m, n = m + 18 := ⟨n - 18, by omega⟩
  rw [State.hostRead_add_18, if_neg (by omega), if_neg (by omega)]

theorem State.hostWrite_unmapped (s : State) (v : Word) : s.hostWrite n v = none := by
  have hread := s.hostRead_unmapped hn
  obtain ⟨m, rfl⟩ : ∃ m, n = m + 18 := ⟨n - 18, by omega⟩
  rw [State.hostWrite_add_18, hread, Option.map_none]

end

section
variable {s : State} {n : Nat} {v : Word} {rest : List Input}

theorem step_of_hostRead_none (h : s.inputs = .hostRead n :: rest) (hnone : s.hostRead n = none) :
    step s = .refused (.unmappedRegister n) := by
  simp [step, fetch, h, fetchRead, hnone]

/-- Only a write of CMD, which is register 0, can start a command; any other number goes to `hostWrite`. -/
theorem step_of_hostWrite_none (hidle : s.busy = false) (h : s.inputs = .hostWrite n v :: rest) (h0 : n ≠ 0)
    (hnone : s.hostWrite n v = none) : step s = .refused (.unmappedRegister n) := by
  simp [step, fetch, h, fetchWrite, hidle, h0, hnone]

end

/-- Settles O8: neither `hostRead` nor `hostWrite` answers at an unmapped number, and such a number is not CMD's. -/
theorem unmappedAccessIsRefused : Obligations.UnmappedAccessIsRefused := by
  unfold Obligations.UnmappedAccessIsRefused
  intro s n rest hn
  refine ⟨fun h => step_of_hostRead_none h (s.hostRead_unmapped hn), fun v hidle h => ?_⟩
  exact step_of_hostWrite_none hidle h (by omega) (s.hostWrite_unmapped hn v)

end Sys2Proof.Machine
end

section
/-! SUPPORT. RREG as the read transaction of one byte (spec/41_bus_transactions.md R163, R166). -/

namespace Sys2Proof.Machine

/-- Checks with the same first refusal make the same command of a body: the frame looks at nothing else of them (R274). -/
theorem runCommand_congr_checks {checks checks' : State → List Check} {s : State} (body : State → Run)
    (h : firstRefusal (checks s.beginCommand) = firstRefusal (checks' s.beginCommand)) :
    runCommand checks body s = runCommand checks' body s := by
  simp only [runCommand, h]

/-- With a count other than 0, `EN` alone decides whether RBURST is refused (R164). -/
theorem exec_rburst_of_count_ne_zero {count : Byte} (h : count ≠ 0#8) (dev : DevAddr) (reg : Byte) (s : State) :
    exec (.rburst dev reg count) s
      = runCommand (fun s => [s.needsEnable]) (memRead .protocolStatusMismatch dev reg count) s := by
  have hcount : (count != 0#8) = true := bne_iff_ne.mpr h
  show execRburst dev reg count s = _
  unfold execRburst
  apply runCommand_congr_checks
  rw [firstRefusal_cons, if_pos hcount]

/-- Settles O27: the count 1 passes RBURST's own check, and what is left of it is RREG's checks and RREG's body. -/
theorem rregIsOneByteBurst : Obligations.RregIsOneByteBurst := by
  unfold Obligations.RregIsOneByteBurst
  intro dev reg s
  have hone : (1#8 : Byte) ≠ 0#8 := by decide
  exact (exec_rburst_of_count_ne_zero hone dev reg s).symm

end Sys2Proof.Machine
end

section
/-! SUPPORT. The raw code of three bytes (spec/42_sensor_access.md R195): bytes placed at disjoint bit positions of a word add
up, and the shift right by 4 is the division by 16. -/

namespace Sys2Proof.Machine

/-- A word placed `n` bits up in a wider word that has room for it is multiplied by `2 ^ n`. -/
theorem toNat_setWidth_shiftLeft {v w n : Nat} (b : BitVec v) (hroom : v + n ≤ w) :
    (b.setWidth w <<< n).toNat = b.toNat <<< n := by
  have hplaced : b.toNat <<< n < 2 ^ w :=
    (Nat.shiftLeft_lt b.isLt).trans_le (Nat.pow_le_pow_right (by decide) hroom)
  rw [BitVec.toNat_shiftLeft, BitVec.toNat_setWidth_of_le (by omega), Nat.mod_eq_of_lt hplaced]

/-- Three bytes joined into a 24-bit word, first byte most significant: each byte lies below the bits before it, so OR adds. -/
theorem toNat_joinedBytes (b0 b1 b2 : Byte) :
    (b0.setWidth 24 <<< 16 ||| b1.setWidth 24 <<< 8 ||| b2.setWidth 24).toNat
      = b0.toNat * 65536 + b1.toNat * 256 + b2.toNat := by
  calc (b0.setWidth 24 <<< 16 ||| b1.setWidth 24 <<< 8 ||| b2.setWidth 24).toNat
      = b0.toNat <<< 16 ||| b1.toNat <<< 8 ||| b2.toNat := by
        rw [BitVec.toNat_or, BitVec.toNat_or, toNat_setWidth_shiftLeft b0 (by decide),
          toNat_setWidth_shiftLeft b1 (by decide), BitVec.toNat_setWidth_of_le (by decide)]
    _ = (b0.toNat <<< 8 ||| b1.toNat) <<< 8 ||| b2.toNat := by
        rw [Nat.shiftLeft_or_distrib, ← Nat.shiftLeft_add]
    _ = (b0.toNat <<< 8 + b1.toNat) <<< 8 + b2.toNat := by
        rw [Nat.shiftLeft_add_eq_or_of_lt b1.isLt, Nat.shiftLeft_add_eq_or_of_lt b2.isLt]
    _ = b0.toNat * 65536 + b1.toNat * 256 + b2.toNat := by omega

/-- The value of a raw code: 20 bits hold the whole quotient, so nothing is cut off (R195). -/
theorem toNat_raw20 (b0 b1 b2 : Byte) :
    (raw20 b0 b1 b2).toNat = (b0.toNat * 65536 + b1.toNat * 256 + b2.toNat) / 16 := by
  have hfits : (b0.toNat * 65536 + b1.toNat * 256 + b2.toNat) / 16 < 2 ^ 20 := by omega
  unfold raw20
  rw [BitVec.toNat_setWidth, BitVec.toNat_ushiftRight, toNat_joinedBytes, Nat.shiftRight_eq_div_pow]
  exact Nat.mod_eq_of_lt hfits

/-- Settles O34: `toNat_raw20` gives the value for all bytes; the rule's examples are evaluated. -/
theorem rawCodeAssembly : Obligations.RawCodeAssembly := by
  unfold Obligations.RawCodeAssembly
  refine ⟨toNat_raw20, ?_⟩
  decide

end Sys2Proof.Machine
end

section
/-! SUPPORT. The signed 32-bit operations over the integers (spec/43_compensation.md R210): `wrap32` is the library's
balanced remainder modulo 2^32, and each operation has one lemma that gives its signed value. -/

namespace Sys2Proof.Machine

/-- The rule's `wrap32` is `Int.bmod` at 2^32, so the library's facts on signed words apply to it. -/
theorem bmod_eq_wrap32 (z : Int) : z.bmod (2 ^ 32) = wrap32 z := by
  unfold wrap32
  rw [Int.bmod_def]
  split <;> omega

/-- The values of `wrap32` are those of an `i32`. -/
theorem wrap32_bounds (z : Int) : -2147483648 ≤ wrap32 z ∧ wrap32 z ≤ 2147483647 := by
  unfold wrap32
  omega

theorem wrap32_congruent (z : Int) : ∃ k : Int, wrap32 z = z + k * 4294967296 :=
  ⟨-((z + 2147483648) / 4294967296), by unfold wrap32; omega⟩

/-- Two congruent integers of the `i32` range are equal, so `wrap32 z` is the only one congruent to `z` (R210). -/
theorem eq_wrap32_iff (z w : Int) :
    (-2147483648 ≤ w ∧ w ≤ 2147483647 ∧ ∃ k : Int, w = z + k * 4294967296) ↔ w = wrap32 z := by
  obtain ⟨hlow, hhigh⟩ := wrap32_bounds z
  obtain ⟨j, hj⟩ := wrap32_congruent z
  constructor
  · rintro ⟨hwlow, hwhigh, k, hk⟩
    omega
  · rintro rfl
    exact ⟨hlow, hhigh, j, hj⟩

@[simp] theorem toInt_add32 (a b : Word) : (add32 a b).toInt = wrap32 (a.toInt + b.toInt) := by
  rw [add32, BitVec.toInt_add, bmod_eq_wrap32]

@[simp] theorem toInt_sub32 (a b : Word) : (sub32 a b).toInt = wrap32 (a.toInt - b.toInt) := by
  rw [sub32, BitVec.toInt_sub, bmod_eq_wrap32]

@[simp] theorem toInt_mul32 (a b : Word) : (mul32 a b).toInt = wrap32 (a.toInt * b.toInt) := by
  rw [mul32, BitVec.toInt_mul, bmod_eq_wrap32]

/-- The signed and the unsigned value of `a` are congruent modulo 2^32, so shifting either gives the same word. -/
@[simp] theorem toInt_shl32 (a : Word) (n : Nat) : (shl32 a n).toInt = wrap32 (a.toInt * 2 ^ n) := by
  calc (shl32 a n).toInt
      = ((a.toNat : Int) * 2 ^ n).bmod (2 ^ 32) := by
        rw [shl32, BitVec.toInt_shiftLeft, Nat.shiftLeft_eq, Nat.cast_mul, Nat.cast_pow, Nat.cast_ofNat]
    _ = (a.toInt * 2 ^ n).bmod (2 ^ 32) := by rw [BitVec.toInt_eq_toNat_bmod, Int.bmod_mul_bmod]
    _ = wrap32 (a.toInt * 2 ^ n) := bmod_eq_wrap32 _

/-- The integer division by a positive number rounds toward minus infinity, as the arithmetic shift does. -/
@[simp] theorem toInt_asr32 (a : Word) (n : Nat) : (asr32 a n).toInt = a.toInt / 2 ^ n := by
  rw [asr32, BitVec.toInt_sshiftRight, Int.shiftRight_eq_div_pow, Nat.cast_pow, Nat.cast_ofNat]

theorem toInt_asr32_eq_floor (a : Word) (n : Nat) : (asr32 a n).toInt = ⌊(a.toInt : ℚ) / 2 ^ n⌋ := by
  have hfloor := Rat.floor_intCast_div_natCast a.toInt (2 ^ n)
  push_cast at hfloor
  rw [toInt_asr32, hfloor]

/-- Settles O40: `eq_wrap32_iff` and the signed value of each operation; the bound on the shift count is not needed. -/
theorem signedArithmetic : Obligations.SignedArithmetic := by
  unfold Obligations.SignedArithmetic
  refine ⟨eq_wrap32_iff, fun a b => ?_, fun a n _ => ?_⟩
  · exact ⟨toInt_add32 a b, toInt_sub32 a b, toInt_mul32 a b⟩
  · exact ⟨toInt_shl32 a n, toInt_asr32_eq_floor a n⟩

end Sys2Proof.Machine
end

section
/-! SUPPORT. The running average (spec/44_measurement_cycles.md R254) over the unsigned values of its operations (R211): a sum
modulo 2^32, halved. Without a wrap it is the rounded-down midpoint, and what R254 says of the approach is read off that. -/

namespace Sys2Proof.Machine

@[simp] theorem toNat_uadd32 (a b : Word) : (uadd32 a b).toNat = (a.toNat + b.toNat) % 4294967296 :=
  BitVec.toNat_add a b

@[simp] theorem toNat_ushr32 (a : Word) (n : Nat) : (ushr32 a n).toNat = a.toNat / 2 ^ n := by
  rw [ushr32, BitVec.toNat_ushiftRight, Nat.shiftRight_eq_div_pow]

/-- The wrap of the addition comes before the halving, so the carry is lost (R254). -/
theorem toNat_avg (old x : Word) : (avg old x).toNat = (old.toNat + x.toNat) % 4294967296 / 2 := by
  rw [avg, toNat_ushr32, toNat_uadd32, pow_one]

section
variable {old x : Word} (hsmall : old.toNat + x.toNat < 4294967296)
include hsmall

theorem toNat_avg_of_no_wrap : (avg old x).toNat = (old.toNat + x.toNat) / 2 := by
  rw [toNat_avg, Nat.mod_eq_of_lt hsmall]

theorem avg_between_of_le (hle : old.toNat ≤ x.toNat) :
    old.toNat ≤ (avg old x).toNat ∧ (avg old x).toNat ≤ x.toNat := by
  rw [toNat_avg_of_no_wrap hsmall]
  omega

/-- From above the average always moves, since the midpoint is rounded down. -/
theorem avg_between_of_gt (hgt : x.toNat < old.toNat) :
    x.toNat ≤ (avg old x).toNat ∧ (avg old x).toNat < old.toNat := by
  rw [toNat_avg_of_no_wrap hsmall]
  omega

theorem avg_eq_sample_of_one_above (habove : old.toNat = x.toNat + 1) : avg old x = x := by
  apply BitVec.eq_of_toNat_eq
  rw [toNat_avg_of_no_wrap hsmall]
  omega

/-- One below the sample the average stays where it is: the fixed point short of the sample (R254). -/
theorem avg_eq_old_of_one_below (hbelow : old.toNat + 1 = x.toNat) : avg old x = old := by
  apply BitVec.eq_of_toNat_eq
  rw [toNat_avg_of_no_wrap hsmall]
  omega

end

/-- Settles O47: `toNat_avg` is the value, the midpoint lemmas are the approach; the rule's examples are evaluated. -/
theorem runningAverage : Obligations.RunningAverage := by
  unfold Obligations.RunningAverage
  constructor
  · exact fun old x => ⟨toNat_avg old x, fun hsmall =>
      ⟨avg_between_of_le hsmall, avg_between_of_gt hsmall,
        avg_eq_sample_of_one_above hsmall, avg_eq_old_of_one_below hsmall⟩⟩
  · decide

end Sys2Proof.Machine
end

section
/-! SUPPORT. The machine after reset (spec/70_reset_and_hazards.md R301): what the host reads, the step of a host write to
CMD and to a seed register, and the command that finds the controller not enabled (R274). -/

namespace Sys2Proof

/-- Only RBURST, the tenth arm of the decoder, has a check on its operands (R103, R104); an unknown opcode is the last. -/
theorem wf_of_decode {w : Word} {i : Instr} (h : decode w = .ok i) : i.wf = true := by
  unfold decode at h
  split at h
  case h_10 => exact (checkOperands_ok.mp h).2
  case h_19 => cases h
  all_goals
    simp only [takesNothing_ok, takesImm_ok, takesAck_ok, takesDev_ok, takesDevReg_ok, takesAll_ok] at h
    obtain ⟨-, rfl⟩ := h
    rfl

end Sys2Proof

namespace Sys2Proof.Machine

open Sys2Proof.Config

section
variable {s : State} (hs : s.AtReset) {n : Nat}
include hs

/-- STATUS alone of the named registers does not read 0 at reset (R46, R301). -/
theorem State.AtReset.hostRead_named (hnamed : n < 18) (hstatus : n ≠ 5) : s.hostRead n = some 0#32 := by
  obtain ⟨hrawT, hrawP⟩ := hs.raw
  obtain ⟨hrdT, hrdP⟩ := hs.reading
  obtain ⟨haccT, haccP⟩ := hs.averages
  obtain hbelow | habove := Nat.lt_or_gt_of_ne hstatus
  all_goals interval_cases n
  all_goals
    simp [State.hostRead, hs.cmd, hs.hstat, hs.err, hs.result, hs.ctrl, hs.data, hs.bitrate, hs.rxLen, hrawT, hrawP,
      hs.tFine, hs.temp, hs.press, hrdT, hrdP, haccT, haccP]

/-- The coefficients and RXBUF, which lie above the named registers, read 0 too. -/
theorem State.AtReset.hostRead_eq_zero {v : Word} (hstatus : n ≠ 5) (hread : s.hostRead n = some v) : v = 0#32 := by
  suffices hzero : s.hostRead n = some 0#32 ∨ s.hostRead n = none by
    obtain h | h := hzero
    · exact Option.some.inj (hread.symm.trans h)
    · cases hread.symm.trans h
  obtain hnamed | hrest := Nat.lt_or_ge n 18
  · exact .inl (hs.hostRead_named hnamed hstatus)
  · obtain ⟨m, rfl⟩ := Nat.exists_eq_add_of_le' hrest
    rw [State.hostRead_add_18]
    split
    · exact .inl (hs.cal _ (by omega))
    · split
      · exact .inl (by rw [hs.rxbuf]; rfl)
      · exact .inr rfl

end

section
variable {s : State} {n : Nat} {v w : Word} {rest : List Input}

theorem step_of_illegal_word {e : DecodeError} (hidle : s.busy = false) (h : s.inputs = .hostWrite 0 w :: rest)
    (hw : decode w = .error e) : step s = .next ((s.accept w rest).beginCommand.refuse .illegalCommand) := by
  simp [step, fetch, h, fetchWrite, hidle, fetchCommand, hw]

theorem step_of_command {i : Instr} (hidle : s.busy = false) (h : s.inputs = .hostWrite 0 w :: rest)
    (hw : decode w = .ok i) : step s = exec i (s.accept w rest) := by
  simp [step, fetch, h, fetchWrite, hidle, fetchCommand, hw]

/-- A write to a register other than CMD runs no command (R73). -/
theorem step_of_hostWrite_some {t : State} (hidle : s.busy = false) (h : s.inputs = .hostWrite n v :: rest) (h0 : n ≠ 0)
    (ht : s.hostWrite n v = some t) : step s = .next { t with inputs := rest } := by
  simp [step, fetch, h, fetchWrite, hidle, h0, ht]

theorem step_writes_rdT (hidle : s.busy = false) (h : s.inputs = .hostWrite 14 v :: rest) :
    step s = .next { s with inputs := rest, rdT := v } :=
  step_of_hostWrite_some hidle h (by decide) rfl

theorem step_writes_rdP (hidle : s.busy = false) (h : s.inputs = .hostWrite 15 v :: rest) :
    step s = .next { s with inputs := rest, rdP := v } :=
  step_of_hostWrite_some hidle h (by decide) rfl

end

theorem runCommand_of_not_enabled {more : State → List Check} {body : State → Run} {s : State} (hen : s.en = false) :
    runCommand (fun s => s.needsEnable :: more s) body s = .next (s.beginCommand.refuse .notEnabled) := by
  apply runCommand_refused
  simp [State.needsEnable, hen]

/-- `EN` is the first check of every command but INIT, once RBURST's count is known to be legal (R274). -/
theorem exec_of_not_enabled {i : Instr} {s : State} (hwf : i.wf = true) (hen : s.en = false) (hinit : i ≠ .init) :
    exec i s = .next (s.beginCommand.refuse .notEnabled) := by
  cases i with
  | init => exact absurd rfl hinit
  | rburst dev reg count =>
    rw [exec_rburst_of_count_ne_zero (bne_iff_ne.mp hwf)]
    exact runCommand_of_not_enabled hen
  | _ =>
    rw [exec]
    exact runCommand_of_not_enabled hen

/-- INIT has no precondition (R132). -/
theorem exec_init (s : State) : exec .init s = (initBody s.beginCommand).outcome := by
  rw [exec, execInit, runCommand_admitted firstRefusal_nil]

section
variable (cfg : Params) (w : Word) (rest : List Input)

/-- FAIL is the only flag set (R32). -/
theorem hstat_refuse_resetWith (k : ErrKind) :
    (((State.resetWith cfg).accept w rest).beginCommand.refuse k).hstat = 2#32 := by
  simp [State.hstat, State.en, State.resetWith, Phase.code, Dir.code, flagBit]

/-- OK and EN are the only flags set (R32). -/
theorem exec_init_resetWith :
    ∃ t, exec .init ((State.resetWith cfg).accept w rest) = .next t ∧ t.err = 0#32 ∧ t.hstat = 5#32 := by
  refine ⟨_, exec_init _, rfl, ?_⟩
  simp [State.hstat, State.en, State.resetWith, Phase.code, Dir.code, flagBit]

end

/-- Settles O4: the reads are those of `AtReset`; an illegal word and a command that is not enabled are refused, INIT is
neither, and a write to a seed register runs no command. -/
theorem afterResetOnlyInitSucceeds : Obligations.AfterResetOnlyInitSucceeds := by
  unfold Obligations.AfterResetOnlyInitSucceeds
  intro cfg rest s
  have hreset : s.AtReset := State.resetWith_atReset cfg
  refine ⟨⟨hreset.hostRead_named (by decide) (by decide), hreset.hostRead_named (by decide) (by decide), rfl,
    fun n v => hreset.hostRead_eq_zero⟩, ?illegal, ?disabled, ?init, ?seed⟩
  case illegal =>
    intro w e hw
    exact ⟨_, step_of_illegal_word rfl rfl hw, rfl, hstat_refuse_resetWith cfg w rest _⟩
  case disabled =>
    intro w i hw hinit
    rw [step_of_command rfl rfl hw]
    exact ⟨_, exec_of_not_enabled (wf_of_decode hw) (State.en_resetWith cfg) hinit, rfl,
      hstat_refuse_resetWith cfg w rest _⟩
  case init =>
    intro w hw
    rw [step_of_command rfl rfl hw]
    exact exec_init_resetWith cfg w rest
  case seed => exact fun v => ⟨step_writes_rdT rfl rfl, step_writes_rdP rfl rfl⟩

end Sys2Proof.Machine
end

section
/-! SUPPORT. Encoding (spec/30_encoding.md R101 to R104): the words of commands and the rows of the opcode map, over the five
fields of the format. -/

namespace Sys2Proof

/-! ### From a command to its word and back -/

/-- `rdb`'s flag is bit 0 of `imm`, and the rest of `imm` is 0 (R103). -/
theorem takesAck_cwWord (op : Byte) (i : Bool → Instr) (ack : Bool) :
    takesAck (cwWord op 0 0 ((BitVec.ofBool ack).setWidth 8)) i = .ok (i ack) := by
  have himm : ((BitVec.ofBool ack).setWidth 8 : Byte).extractLsb' 1 7 = 0#7
      ∧ ((BitVec.ofBool ack).setWidth 8 : Byte).getLsbD 0 = ack := by
    cases ack <;> decide
  rw [takesAck_ok]
  simp [himm]

/-- Settles O11: the opcode of `encode i` selects the arm of `i`, whose form reads the operands back. -/
theorem decodeOfEncode : Obligations.DecodeOfEncode := by
  unfold Obligations.DecodeOfEncode
  intro i hwf
  cases i with
  | init | start | rstart | stop | stat | cmpt | cmpp => simp [encode, decode, takesNothing]
  | wrb byte => simp [encode, decode, takesImm]
  | rdb ack =>
    have hop : (cwOp (encode (.rdb ack))).toNat = 0x06 := by simp [encode]
    rw [decode, hop]
    exact takesAck_cwWord 0x06 .rdb ack
  | wreg dev reg value => simp [encode, decode, takesAll]
  | rreg dev reg => simp [encode, decode, takesDevReg]
  | rburst dev reg count => simp [encode, decode, takesAll, checkOperands, hwf]
  | ldcal dev | reqm dev | rdrt dev | rdrp dev | sinit dev | sread dev => simp [encode, decode, takesDev]

/-! ### From a word to its command and back -/

/-- A word with `z = 0` is built from its opcode and its other fields. -/
theorem cwWord_eq_of_op {w : Word} {n : Nat} (hop : (cwOp w).toNat = n) (hz : cwZ w = 0#1) :
    cwWord (BitVec.ofNat 8 n) (cwDev w) (cwReg w) (cwImm w) = w := by
  rw [← hop, BitVec.ofNat_toNat, BitVec.setWidth_eq]
  exact cwWord_fields hz

/-- A byte whose upper seven bits are 0 is its lowest bit. -/
theorem setWidth_ofBool_of_upper_zero {b : Byte} (h : b.extractLsb' 1 7 = 0#7) :
    (BitVec.ofBool (b.getLsbD 0)).setWidth 8 = b := by
  revert b
  decide

/-- Every arm of the decoder keeps the fields it uses and has found the others 0, so nothing of the word is lost. -/
theorem encode_of_decode {w : Word} {i : Instr} (h : decode w = .ok i) : encode i = w := by
  unfold decode at h
  split at h
  case h_19 => cases h
  case h_6 hop =>
    obtain ⟨⟨hz, hdev, hreg, himm⟩, rfl⟩ := takesAck_ok.mp h
    have hw := cwWord_eq_of_op hop hz
    rw [hdev, hreg] at hw
    rw [encode, setWidth_ofBool_of_upper_zero himm]
    exact hw
  case h_10 hop =>
    obtain ⟨hz, rfl⟩ := takesAll_ok.mp (checkOperands_ok.mp h).1
    exact cwWord_eq_of_op hop hz
  all_goals
    rename_i hop
    simp only [takesNothing_ok, takesImm_ok, takesDev_ok, takesDevReg_ok, takesAll_ok] at h
  case h_5 =>
    obtain ⟨⟨hz, hdev, hreg⟩, rfl⟩ := h
    simpa [encode, hdev, hreg] using cwWord_eq_of_op hop hz
  case h_8 =>
    obtain ⟨hz, rfl⟩ := h
    exact cwWord_eq_of_op hop hz
  case h_9 =>
    obtain ⟨⟨hz, himm⟩, rfl⟩ := h
    simpa [encode, himm] using cwWord_eq_of_op hop hz
  case h_11 | h_12 | h_13 | h_14 | h_17 | h_18 =>
    obtain ⟨⟨hz, hreg, himm⟩, rfl⟩ := h
    simpa [encode, hreg, himm] using cwWord_eq_of_op hop hz
  all_goals
    obtain ⟨⟨hz, hdev, hreg, himm⟩, rfl⟩ := h
    simpa [encode, hdev, hreg, himm] using cwWord_eq_of_op hop hz

/-- Settles O12: `wf_of_decode` and `encode_of_decode`. -/
theorem encodeOfDecode : Obligations.EncodeOfDecode := by
  unfold Obligations.EncodeOfDecode
  exact fun w i h => ⟨wf_of_decode h, encode_of_decode h⟩

/-! ### The rows of the opcode map (R103) -/

/-- A command's word lies in its own row: one lemma per command, collected. -/
theorem encode_and_rowMask (i : Instr) : encode i &&& i.rowMask = i.rowMatch := by
  cases i with
  | init => exact Laws.EncodedRow.init
  | start => exact Laws.EncodedRow.start
  | rstart => exact Laws.EncodedRow.rstart
  | stop => exact Laws.EncodedRow.stop
  | wrb byte => exact Laws.EncodedRow.wrb byte
  | rdb ack => exact Laws.EncodedRow.rdb ack
  | stat => exact Laws.EncodedRow.stat
  | wreg dev reg value => exact Laws.EncodedRow.wreg dev reg value
  | rreg dev reg => exact Laws.EncodedRow.rreg dev reg
  | rburst dev reg count => exact Laws.EncodedRow.rburst dev reg count
  | ldcal dev => exact Laws.EncodedRow.ldcal dev
  | reqm dev => exact Laws.EncodedRow.reqm dev
  | rdrt dev => exact Laws.EncodedRow.rdrt dev
  | rdrp dev => exact Laws.EncodedRow.rdrp dev
  | cmpt => exact Laws.EncodedRow.cmpt
  | cmpp => exact Laws.EncodedRow.cmpp
  | sinit dev => exact Laws.EncodedRow.sinit dev
  | sread dev => exact Laws.EncodedRow.sread dev

/-- The `match` words of the rows are distinct, so they tell the rows apart. -/
theorem rowMask_eq_of_rowMatch_eq {i j : Instr} (h : i.rowMatch = j.rowMatch) : i.rowMask = j.rowMask := by
  cases i <;> cases j <;> simp [Instr.rowMatch, Instr.rowMask] at h ⊢

/-- A field that a mask covers whole is read off the masked word. -/
theorem field_eq_of_masked {n start : Nat} {w m v : Word} (h : w &&& m = v)
    (hm : (m.extractLsb' start n).toNat = 2 ^ n - 1) : w.extractLsb' start n = v.extractLsb' start n := by
  have hones : m.extractLsb' start n = BitVec.allOnes n := BitVec.eq_of_toNat_eq (hm.trans BitVec.toNat_allOnes.symm)
  rw [← h, BitVec.extractLsb'_and, hones, BitVec.and_allOnes]

theorem and_255_eq_zero_iff (w : Word) : w &&& 0xFF#32 = 0#32 ↔ cwImm w = 0#8 := by
  have himm : w &&& 0xFF#32 = (cwImm w).setWidth 32 := by
    ext i hi
    interval_cases i <;> simp [cwImm]
  rw [himm]
  exact ⟨fun h => by simpa using congrArg (BitVec.setWidth 8) h, fun h => by rw [h]; rfl⟩

/-- Only RBURST has the opcode 0x12, and its count is `imm` (R103). -/
theorem imm_ne_zero_of_burst {w : Word} {j : Instr} (h : decode w = .ok j) (hj : j.rowMatch = 0x12000000#32) :
    cwImm w ≠ 0#8 := by
  have hwf := wf_of_decode h
  rw [← encode_of_decode h]
  cases j with
  | rburst dev reg count => simpa [encode] using bne_iff_ne.mp hwf
  | _ => simp [Instr.rowMatch] at hj

/-- A row whose mask is all ones has one word, its `match`. -/
theorem decode_of_match_whole {w v : Word} {i : Instr} (h : w &&& 0xFFFFFFFF#32 = v) (hv : decode v = .ok i) :
    decode w = .ok i := by
  have hw : w = v := by rw [← h]; exact BitVec.and_allOnes.symm
  rw [hw, hv]

/-- A word whose masked bits are those of a row decodes to a command of the row: the masked fields are `op`, `z` and the fields
that the row does not use. -/
theorem decode_of_match {w : Word} {i : Instr} (h : w &&& i.rowMask = i.rowMatch)
    (hcount : i.rowMatch = 0x12000000#32 → cwImm w ≠ 0#8) : ∃ j, decode w = .ok j ∧ j.rowMatch = i.rowMatch := by
  have hz : cwZ w = 0#1 :=
    (field_eq_of_masked h (by cases i <;> simp [Instr.rowMask])).trans (by cases i <;> simp [Instr.rowMatch])
  have hop : (cwOp w).toNat = (cwOp i.rowMatch).toNat :=
    congrArg BitVec.toNat (field_eq_of_masked h (by cases i <;> simp [Instr.rowMask]))
  cases i
  case init | start | rstart | stop | stat | cmpt | cmpp => exact ⟨_, decode_of_match_whole h rfl, rfl⟩
  all_goals
    simp only [Instr.rowMask, Instr.rowMatch] at h hop hcount
    rw [decode, hop]
  case wrb =>
    exact ⟨_, takesImm_ok.mpr ⟨⟨hz, field_eq_of_masked h rfl, field_eq_of_masked h rfl⟩, rfl⟩, rfl⟩
  case rdb =>
    have hupper : (cwImm w).extractLsb' 1 7 = 0#7 := by
      rw [cwImm, BitVec.extractLsb'_extractLsb'_of_le (by decide)]
      exact field_eq_of_masked h rfl
    exact ⟨_, takesAck_ok.mpr ⟨⟨hz, field_eq_of_masked h rfl, field_eq_of_masked h rfl, hupper⟩, rfl⟩, rfl⟩
  case wreg =>
    exact ⟨_, takesAll_ok.mpr ⟨hz, rfl⟩, rfl⟩
  case rreg =>
    exact ⟨_, takesDevReg_ok.mpr ⟨⟨hz, field_eq_of_masked h rfl⟩, rfl⟩, rfl⟩
  case rburst =>
    exact ⟨_, checkOperands_ok.mpr ⟨takesAll_ok.mpr ⟨hz, rfl⟩, bne_iff_ne.mpr (hcount rfl)⟩, rfl⟩
  case ldcal | reqm | rdrt | rdrp | sinit | sread =>
    exact ⟨_, takesDev_ok.mpr ⟨⟨hz, field_eq_of_masked h rfl, field_eq_of_masked h rfl⟩, rfl⟩, rfl⟩

/-- Settles O13: a decoded word is its command's encoding, which lies in the command's row; the other way is
`decode_of_match`. -/
theorem maskAndMatchDecideTheCommand : Obligations.MaskAndMatchDecideTheCommand := by
  unfold Obligations.MaskAndMatchDecideTheCommand
  intro w i
  rw [ne_eq, and_255_eq_zero_iff]
  constructor
  · rintro ⟨j, hj, hrow⟩
    refine ⟨?_, fun hburst => imm_ne_zero_of_burst hj (hrow.trans hburst)⟩
    rw [← rowMask_eq_of_rowMatch_eq hrow, ← hrow, ← encode_of_decode hj]
    exact encode_and_rowMask j
  · rintro ⟨hmasked, hcount⟩
    exact decode_of_match hmasked hcount

/-- Settles O10: the words are evaluated. -/
theorem wordsOfTheSpecDecode : Obligations.WordsOfTheSpecDecode := by
  unfold Obligations.WordsOfTheSpecDecode
  decide

end Sys2Proof
end

section
/-! SUPPORT. The commands one by one as checks and a body (spec/40_bus_primitives.md R130, spec/60_exceptions.md R274), and
what a primitive's body can do. -/

namespace Sys2Proof.Machine

open Sys2Proof.Config

/-- The checks of a command after decoding, in their order (R274). -/
def commandChecks : Instr → State → List Check
  | .init, _ => []
  | .start, s => [s.needsEnable]
  | .rstart, s => [s.needsEnable]
  | .stop, s => [s.needsEnable]
  | .wrb _, s => [s.needsEnable, (s.mayWrite, .sequenceViolation)]
  | .rdb _, s => [s.needsEnable, (s.mayRead, .sequenceViolation)]
  | .stat, s => [s.needsEnable]
  | .wreg _ _ _, s => [s.needsEnable]
  | .rreg _ _, s => [s.needsEnable]
  | .rburst _ _ count, s => [(count != 0#8, .illegalCommand), s.needsEnable]
  | .ldcal _, s => [s.needsEnable]
  | .reqm _, s => [s.needsEnable]
  | .rdrt _, s => [s.needsEnable, (s.measOk, .orderViolation)]
  | .rdrp _, s => [s.needsEnable, (s.measOk, .orderViolation)]
  | .cmpt, s => [s.needsEnable, s.needsCalibration, (s.rawTValid, .orderViolation)]
  | .cmpp, s => [s.needsEnable, s.needsCalibration, (s.rawPValid && s.tFineValid, .orderViolation)]
  | .sinit _, s => [s.needsEnable]
  | .sread _, s => [s.needsEnable, s.needsCalibration]

/-- What a command does once it is admitted. -/
def commandBody : Instr → State → Run
  | .init => initBody
  | .start => primitive busStart
  | .rstart => primitive busStart
  | .stop => primitive busStop
  | .wrb byte => primitive (busSend byte)
  | .rdb ack => primitive (busRecv ack)
  | .stat => fun s => .done { s with result := s.code }
  | .wreg dev reg value => memWrite dev reg value
  | .rreg dev reg => memRead .protocolStatusMismatch dev reg 1#8
  | .rburst dev reg count => memRead .protocolStatusMismatch dev reg count
  | .ldcal dev => ldcalStep dev
  | .reqm dev => reqmStep dev
  | .rdrt dev => rdrtStep dev
  | .rdrp dev => rdrpStep dev
  | .cmpt => cmptStep
  | .cmpp => cmppStep
  | .sinit dev => sinitBody dev
  | .sread dev => sreadBody dev

theorem exec_eq_runCommand (i : Instr) (s : State) : exec i s = runCommand (commandChecks i) (commandBody i) s := by
  cases i <;> rfl

section
variable {i : Instr} {s t : State}

theorem exec_of_refused {k : ErrKind} (h : firstRefusal (commandChecks i s.beginCommand) = some k) :
    exec i s = .next (s.beginCommand.refuse k) := by
  rw [exec_eq_runCommand, runCommand_refused h]

theorem exec_of_admitted (h : firstRefusal (commandChecks i s.beginCommand) = none) :
    exec i s = (commandBody i s.beginCommand).outcome := by
  rw [exec_eq_runCommand, runCommand_admitted h]

/-- The rule of the command frame for a state that `exec` has answered. -/
theorem exec_ends {P : State → Prop} (h : exec i s = .next t)
    (hrefused : ∀ k, firstRefusal (commandChecks i s.beginCommand) = some k → P (s.beginCommand.refuse k))
    (hbody : firstRefusal (commandChecks i s.beginCommand) = none →
      (commandBody i s.beginCommand).Ends (fun u => P u.succeed) P P) : P t := by
  rw [exec_eq_runCommand] at h
  obtain ⟨u, hu, hP⟩ := runCommand_ends hrefused hbody
  cases h.symm.trans hu
  exact hP

end

theorem mem_of_firstRefusal {k : ErrKind} : ∀ {cs : List Check}, firstRefusal cs = some k → (false, k) ∈ cs
  | (true, _) :: rest, h => List.mem_cons_of_mem _ (mem_of_firstRefusal (cs := rest) h)
  | (false, _) :: rest, h => by
    cases h
    exact List.mem_cons_self

/-- A check has a kind, and none refuses for want of an answer on the bus (R274). -/
theorem refusal_kind {i : Instr} {s : State} {k : ErrKind} (h : firstRefusal (commandChecks i s) = some k) :
    k ≠ .none ∧ k ≠ .busTimeout := by
  have hall : ∀ c ∈ commandChecks i s, c.2 ≠ .none ∧ c.2 ≠ .busTimeout := by
    cases i <;> simp [commandChecks, State.needsEnable, State.needsCalibration]
  exact hall _ (mem_of_firstRefusal h)

/-! ### Primitives -/

theorem Waited.Ends.mono {D D' T T' H H' : State → Prop} {w : Waited} (h : w.Ends D T H) (hD : ∀ s, D s → D' s)
    (hT : ∀ s, T s → T' s) (hH : ∀ s, H s → H' s) : w.Ends D' T' H' := by
  cases w with
  | completed s => exact hD s h
  | timedOut s => exact hT s h
  | hung s => exact hH s h

/-- RESULT, DATA or both are as they were. -/
def KeptBytes (result data : Bool) (s t : State) : Prop :=
  (result = true → t.result = s.result) ∧ (data = true → t.data = s.data)

/-- How any of the four bus actions ends: its work is done, or the wait for it gives up under a finite limit, or it hangs; and
what it keeps of RESULT and DATA. -/
def ActionEnds (result data : Bool) (s : State) (w : Waited) : Prop :=
  w.Ends (fun t => ActionWork s t ∧ KeptBytes result data s t)
    (fun t => ActionWork s t ∧ KeptBytes result data s t ∧ ∃ n, s.cfg.waitLimit = .finite n)
    (fun t => ActionWork s t ∧ KeptBytes result data s t ∧ s.cfg.waitLimit = .inf)

theorem busStart_actionEnds (s : State) : ActionEnds true true s (busStart s) := by
  refine (busStart_ends s).mono ?_ ?_ ?_
  · rintro t ⟨hwork, hresult, hdata, -⟩
    exact ⟨hwork, fun _ => hresult, fun _ => hdata⟩
  all_goals
    rintro t ⟨rfl, hwork, hlimit⟩
    exact ⟨hwork, ⟨fun _ => rfl, fun _ => rfl⟩, hlimit⟩

theorem busSend_actionEnds (b : Byte) (s : State) : ActionEnds true false s (busSend b s) := by
  refine (busSend_ends b s).mono ?_ ?_ ?_
  · rintro t ⟨hwork, hresult, -⟩
    exact ⟨hwork, fun _ => hresult, nofun⟩
  all_goals
    rintro t ⟨rfl, hwork, hlimit⟩
    exact ⟨hwork, ⟨fun _ => rfl, nofun⟩, hlimit⟩

theorem busRecv_actionEnds (ack : Bool) (s : State) : ActionEnds false false s (busRecv ack s) :=
  (busRecv_ends ack s).mono (fun _ h => ⟨h.1, nofun, nofun⟩) (fun _ h => ⟨h.2.1, ⟨nofun, nofun⟩, h.2.2⟩)
    fun _ h => ⟨h.2.1, ⟨nofun, nofun⟩, h.2.2⟩

theorem busStop_actionEnds (s : State) : ActionEnds true true s (busStop s) := by
  refine (busStop_ends s).mono ?_ ?_ ?_
  · rintro t ⟨hwork, hresult, hdata, -⟩
    exact ⟨hwork, fun _ => hresult, fun _ => hdata⟩
  all_goals
    rintro t ⟨-, rfl, hwork, hlimit⟩
    exact ⟨hwork, ⟨fun _ => rfl, fun _ => rfl⟩, hlimit⟩

/-- What the body of a primitive with a bus action can do: no sensor register and no part of the buffer is touched, and a
timeout is recorded as such (R131, R272). -/
theorem primitive_ends {result data : Bool} {action : State → Waited} {s : State}
    (ha : ActionEnds result data s (action s)) :
    StepEnds s (fun t => SameSensor s t ∧ SameBuffer s t ∧ KeptBytes result data s t) (fun t => t.spc = s.spc)
      (primitive action s) := by
  unfold primitive
  cases hw : action s with
  | completed t =>
    rw [hw] at ha
    obtain ⟨hwork, hbytes⟩ := ha
    exact .of_done hwork.body hwork.err hwork.tpc ⟨hwork.sensor, hwork.kept, hbytes⟩ hwork.spc
  | timedOut t =>
    rw [hw] at ha
    obtain ⟨hwork, hbytes, hfinite⟩ := ha
    exact ⟨t, _, hwork.body, ⟨hwork.sensor, hwork.kept, hbytes⟩, ⟨by simp, fun _ => hfinite⟩, rfl⟩
  | hung t =>
    rw [hw] at ha
    obtain ⟨hwork, hbytes, hinf⟩ := ha
    exact ⟨hwork.body, ⟨hwork.sensor, hwork.kept, hbytes⟩, hinf, .inl hwork.err⟩

end Sys2Proof.Machine
end

section
/-! SUPPORT. The steps of a measurement cycle and the composite commands (spec/44_measurement_cycles.md R250 to R255):
everything a cycle keeps is one transitive relation, `CycleWork`, and every step of a cycle has it. -/

namespace Sys2Proof.Machine

open Sys2Proof.Config

/-- What the steps S2, S3, S4, S6, S7 keep whatever happens: the calibration, the Reading, the accumulators, the entries of
RXBUF from 3 on, and the order of the counters and of the cycle flags. -/
structure CycleWork (s t : State) : Prop where
  cal : t.cal = s.cal
  calValid : t.calValid = s.calValid
  rdT : t.rdT = s.rdT
  rdP : t.rdP = s.rdP
  accT : t.accT = s.accT
  accP : t.accP = s.accP
  cyc : t.cyc = s.cyc
  entries : SameEntriesFrom 3 s t
  counted : Counted s → Counted t
  flags : s.CycleInv → t.CycleInv

theorem CycleWork.refl (s : State) : CycleWork s s :=
  ⟨rfl, rfl, rfl, rfl, rfl, rfl, rfl, fun _ _ => rfl, id, id⟩

theorem SameEntriesFrom.trans {n : Nat} {s t u : State} (h : SameEntriesFrom n s t) (k : SameEntriesFrom n t u) :
    SameEntriesFrom n s u := fun a ha => (k a ha).trans (h a ha)

theorem SameEntriesFrom.mono {m n : Nat} (hle : m ≤ n) {s t : State} (h : SameEntriesFrom m s t) : SameEntriesFrom n s t :=
  fun a ha => h a (hle.trans ha)

theorem SameBuffer.entries {s t : State} (h : SameBuffer s t) (n : Nat) : SameEntriesFrom n s t :=
  fun a _ => by rw [h.rxbuf]

theorem SameBuffer.counted {s t : State} (h : SameBuffer s t) (hs : Counted s) : Counted t := by
  rw [Counted, h.rxLen, h.idx]
  exact hs

theorem CycleWork.trans {s t u : State} (h : CycleWork s t) (k : CycleWork t u) : CycleWork s u where
  cal := k.cal.trans h.cal
  calValid := k.calValid.trans h.calValid
  rdT := k.rdT.trans h.rdT
  rdP := k.rdP.trans h.rdP
  accT := k.accT.trans h.accT
  accP := k.accP.trans h.accP
  cyc := k.cyc.trans h.cyc
  entries := h.entries.trans k.entries
  counted := k.counted ∘ h.counted
  flags := k.flags ∘ h.flags

/-- The order of the cycle flags depends on the flags alone. -/
theorem SameSensor.cycleInv {s t : State} (h : SameSensor s t) (hs : s.CycleInv) : t.CycleInv := by
  rw [State.CycleInv, h.rawTValid, h.rawPValid, h.tFineValid, h.measOk, h.calValid]
  exact hs

/-- A write of the codes and flags of a cycle that keeps the flags in order: `s'` is `s` with those written. -/
theorem CycleWork.of_sensor {s s' t : State} (h : SameSensor s' t) (hs' : CycleWork s s') (he : SameEntriesFrom 3 s t)
    (hc : Counted s → Counted t) : CycleWork s t where
  cal := h.cal.trans hs'.cal
  calValid := h.calValid.trans hs'.calValid
  rdT := h.rdT.trans hs'.rdT
  rdP := h.rdP.trans hs'.rdP
  accT := h.accT.trans hs'.accT
  accP := h.accP.trans hs'.accP
  cyc := h.cyc.trans hs'.cyc
  entries := he
  counted := hc
  flags := fun hs => h.cycleInv (hs'.flags hs)

/-- A state that differs from `s` in the codes, values and flags of the cycle only, and has the flags in order. -/
theorem CycleWork.of_flags {s : State} {rawT rawP : RawCode} {tFine temp press : Word}
    {measOk rawTValid rawPValid tFineValid divg : Bool}
    (hflags : s.CycleInv → ({ s with
      measOk := measOk, rawTValid := rawTValid, rawPValid := rawPValid, tFineValid := tFineValid } : State).CycleInv) :
    CycleWork s { s with
      measOk := measOk, rawTValid := rawTValid, rawPValid := rawPValid, tFineValid := tFineValid
      rawT := rawT, rawP := rawP, tFine := tFine, temp := temp, press := press, divg := divg } :=
  ⟨rfl, rfl, rfl, rfl, rfl, rfl, rfl, fun _ _ => rfl, id, hflags⟩

section
variable {dev : DevAddr} {s : State}

/-- S2 leaves the flags of the codes and of `T_FINE` clear, whatever happens (R192). -/
theorem reqmStep_cycle (ht : s.tpc = .t0) :
    StepEnds s (CycleWork s) (fun t => t.measOk = true ∧ t.spc = s.spc) (reqmStep dev s) := by
  have work : ∀ (m : Bool) (t : State), SameBuffer s t →
      SameSensor { s with measOk := m, rawTValid := false, rawPValid := false, tFineValid := false } t → CycleWork s t :=
    fun m t hb hs => .of_sensor hs (.of_flags fun _ => ⟨nofun, nofun, nofun⟩) (hb.entries 3) hb.counted
  refine (reqmStep_ends dev ht).mono ?_ ?_ ?_
  · rintro t ⟨hwork, herr, htpc, hspc, hb, -, hs⟩
    exact ⟨hwork, herr, htpc.trans ht.symm, work _ t hb hs, hs.measOk, hspc⟩
  · rintro t ⟨u, e, hwork, ⟨hb, -, hs⟩, he⟩
    exact ⟨u, e, hwork, work _ u hb hs, he⟩
  · rintro t ⟨hwork, ⟨hb, -, hs⟩, he⟩
    exact ⟨hwork, work _ t hb hs, he⟩

/-- S3 sets `RAWT_VALID` at its end only, within a cycle (R193). -/
theorem rdrtStep_cycle (ht : s.tpc = .t0) (hm : s.measOk = true) :
    StepEnds s (CycleWork s) (fun t => t.measOk = true ∧ t.spc = s.spc) (rdrtStep dev s) := by
  have work : ∀ (v : Bool) (r : RawCode) (t : State), SameEntriesFrom 3 s t → Counted t →
      SameSensor { s with rawT := r, rawTValid := v } t → CycleWork s t :=
    fun v r t he hc hs => .of_sensor hs (.of_flags fun hi => ⟨fun _ => hm, hi.2⟩) he fun _ => hc
  refine (rdrtStep_ends dev s).mono ?_ ?_ ?_
  · rintro t ⟨hwork, herr, htpc, hspc, he, hc, -, -, hs⟩
    exact ⟨hwork, herr, htpc.trans ht.symm, work _ _ t he hc hs, hs.measOk.trans hm, hspc⟩
  · rintro t ⟨u, e, hwork, ⟨he, hc, hs⟩, hfail⟩
    exact ⟨u, e, hwork, work _ _ u he (.inl hc) hs, hfail⟩
  · rintro t ⟨hwork, ⟨he, hc, hs⟩, hhang⟩
    exact ⟨hwork, work _ _ t he (.inl hc) hs, hhang⟩

/-- S6 sets `RAWP_VALID` at its end only, within a cycle (R194). -/
theorem rdrpStep_cycle (ht : s.tpc = .t0) (hm : s.measOk = true) :
    StepEnds s (CycleWork s) (fun t => t.measOk = true ∧ t.spc = s.spc) (rdrpStep dev s) := by
  have work : ∀ (v : Bool) (r : RawCode) (t : State), SameEntriesFrom 3 s t → Counted t →
      SameSensor { s with rawP := r, rawPValid := v } t → CycleWork s t :=
    fun v r t he hc hs => .of_sensor hs (.of_flags fun hi => ⟨hi.1, fun _ => hm, hi.2.2⟩) he fun _ => hc
  refine (rdrpStep_ends dev s).mono ?_ ?_ ?_
  · rintro t ⟨hwork, herr, htpc, hspc, he, hc, -, -, hs⟩
    exact ⟨hwork, herr, htpc.trans ht.symm, work _ _ t he hc hs, hs.measOk.trans hm, hspc⟩
  · rintro t ⟨u, e, hwork, ⟨he, hc, hs⟩, hfail⟩
    exact ⟨u, e, hwork, work _ _ u he (.inl hc) hs, hfail⟩
  · rintro t ⟨hwork, ⟨he, hc, hs⟩, hhang⟩
    exact ⟨hwork, work _ _ t he (.inl hc) hs, hhang⟩

/-- S4 (R215), in a cycle and with a calibration. -/
theorem cmptStep_cycle (hm : s.CycleInv → s.measOk = true) (hc : s.calValid = true) :
    StepEnds s (CycleWork s) (fun t => t.measOk = s.measOk ∧ t.spc = s.spc) (cmptStep s) :=
  .of_done (.of_sensor (by constructor <;> rfl) (by constructor <;> rfl) (by constructor <;> rfl) rfl rfl rfl id) rfl rfl
    (.of_flags fun hi => ⟨hi.1, hi.2.1, fun _ => ⟨hm hi, hc⟩⟩) ⟨rfl, rfl⟩

/-- S7 (R219) writes no flag of the cycle. -/
theorem cmppStep_cycle : StepEnds s (CycleWork s) (fun t => t.measOk = s.measOk ∧ t.spc = s.spc) (cmppStep s) :=
  .of_done (.of_sensor (by constructor <;> rfl) (by constructor <;> rfl) (by constructor <;> rfl) rfl rfl rfl id) rfl rfl
    (.of_flags id) ⟨rfl, rfl⟩

end

/-- A step of the sequencer keeps what its meaning keeps: `SPC` names the step and nothing else looks at it (R250). -/
theorem sensorStep_trans {R : State → State → Prop} (htrans : ∀ {s t u}, R s t → R t u → R s u) {label : SLabel}
    {step : State → Run} {s : State} {D : State → Prop} (hlabel : R s { s with spc := label })
    (h : StepEnds { s with spc := label } (R { s with spc := label }) D (step { s with spc := label })) :
    StepEnds s (R s) D (sensorStep label step s) := by
  have hbody : BodyWork s { s with spc := label } :=
    .of_sensor (by constructor <;> rfl) (by constructor <;> rfl) (by constructor <;> rfl) rfl rfl rfl id
  exact (StepEnds.from_sensor hbody rfl rfl h).weaken (fun _ => htrans hlabel) fun _ _ => id

theorem sensorStep_cycle {label : SLabel} {step : State → Run} {s : State} {D : State → Prop}
    (h : StepEnds { s with spc := label } (CycleWork { s with spc := label }) D (step { s with spc := label })) :
    StepEnds s (CycleWork s) D (sensorStep label step s) :=
  sensorStep_trans .trans ⟨rfl, rfl, rfl, rfl, rfl, rfl, rfl, fun _ _ => rfl, id, id⟩ h

theorem Run.andThen_assoc (r : Run) (f g : State → Run) :
    (r.andThen f).andThen g = r.andThen fun s => (f s).andThen g := by
  cases r <;> rfl

/-- The steps S2, S3, S4, S6, S7: a reading cycle without its averages (R251). -/
def readingCycle (dev : DevAddr) (s : State) : Run :=
  (sensorStep .s2 (reqmStep dev) s).andThen fun s =>
  (sensorStep .s3 (rdrtStep dev) s).andThen fun s =>
  (sensorStep .s4 cmptStep s).andThen fun s =>
  (sensorStep .s6 (rdrpStep dev) s).andThen fun s =>
  sensorStep .s7 cmppStep s

/-- SREAD is one reading cycle and the commit of its pair (R252). -/
theorem sreadBody_eq (dev : DevAddr) (s : State) :
    sreadBody dev s
      = (readingCycle dev s).andThen fun s => .done { s with spc := .s0, rdT := s.temp, rdP := s.press } := by
  simp only [readingCycle, Run.andThen_assoc]
  rfl

/-- Sequencing when what is kept is a transitive relation to the state a part began in. -/
theorem StepEnds.andThen_trans {R : State → State → Prop} (htrans : ∀ {s t u}, R s t → R t u → R s u) {s : State}
    {D D' : State → Prop} {r : Run} {k : State → Run} (h : StepEnds s (R s) D r)
    (hk : ∀ t, t.tpc = s.tpc → R s t → D t → StepEnds t (R t) D' (k t)) : StepEnds s (R s) D' (r.andThen k) :=
  h.andThen fun t _ ht hR hD => (hk t ht hR hD).weaken (fun _ => htrans hR) fun _ _ => id

/-- What a reading cycle can do from a state with a calibration. -/
theorem readingCycle_ends (dev : DevAddr) {s : State} (ht : s.tpc = .t0) (hc : s.calValid = true) :
    StepEnds s (CycleWork s) (fun _ => True) (readingCycle dev s) := by
  refine .andThen_trans .trans (sensorStep_cycle (reqmStep_cycle ht)) fun t₁ ht₁ hw₁ ⟨hm₁, _⟩ => ?_
  refine .andThen_trans .trans (sensorStep_cycle (rdrtStep_cycle (ht₁.trans ht) hm₁)) fun t₂ ht₂ hw₂ ⟨hm₂, _⟩ => ?_
  have hc₂ : t₂.calValid = true := (hw₁.trans hw₂).calValid.trans hc
  refine .andThen_trans .trans (sensorStep_cycle (cmptStep_cycle (fun _ => hm₂) hc₂)) fun t₃ ht₃ _ ⟨hm₃, _⟩ => ?_
  have htpc₃ : t₃.tpc = .t0 := by rw [ht₃, ht₂, ht₁, ht]
  refine .andThen_trans .trans (sensorStep_cycle (rdrpStep_cycle htpc₃ (hm₃.trans hm₂))) fun t₄ _ _ _ => ?_
  exact (sensorStep_cycle cmppStep_cycle).weaken (fun _ => id) fun _ _ _ => trivial

/-- What SREAD can do (R252): it commits the pair of the cycle at its end, or the Reading is as it was. -/
theorem sreadBody_ends (dev : DevAddr) {s : State} (ht : s.tpc = .t0) (hc : s.calValid = true) :
    (sreadBody dev s).Ends
      (fun t => BodyWork s t ∧ t.err = s.err ∧ t.tpc = .t0 ∧ t.spc = .s0 ∧ t.rdT = t.temp ∧ t.rdP = t.press
        ∧ CycleWork { s with rdT := t.rdT, rdP := t.rdP } t)
      (fun t => ∃ u e, BodyWork s u ∧ CycleWork s u ∧ ErrInfo.FitsLimit e s.cfg.waitLimit ∧ t = u.failWith e)
      (fun t => BodyWork s t ∧ CycleWork s t ∧ s.cfg.waitLimit = .inf
        ∧ (t.err = s.err ∨ ∃ e, ErrInfo.FitsLimit e s.cfg.waitLimit ∧ t.err = e.word)) := by
  rw [sreadBody_eq]
  refine Run.Ends.andThen (readingCycle_ends dev ht hc) fun t ⟨hwork, herr, htpc, hcycle, _⟩ => ?_
  refine ⟨hwork.trans (.of_sensor (by constructor <;> rfl) (by constructor <;> rfl) (by constructor <;> rfl) rfl rfl rfl
    id), herr, htpc.trans ht, rfl, rfl, rfl, ?_⟩
  exact { hcycle with rdT := rfl, rdP := rfl }

/-! ### The warm-up of SINIT (R253) -/

/-- What SINIT keeps until its commit: the Reading, the entries of RXBUF from 24 on, and the order of the counters and of the
cycle flags. -/
structure WarmupWork (s t : State) : Prop where
  rdT : t.rdT = s.rdT
  rdP : t.rdP = s.rdP
  entries : SameEntriesFrom 24 s t
  counted : Counted s → Counted t
  cyc : s.cyc ≤ 10 → t.cyc ≤ 10
  flags : s.CycleInv → t.CycleInv

theorem WarmupWork.refl (s : State) : WarmupWork s s := ⟨rfl, rfl, fun _ _ => rfl, id, id, id⟩

theorem WarmupWork.trans {s t u : State} (h : WarmupWork s t) (k : WarmupWork t u) : WarmupWork s u where
  rdT := k.rdT.trans h.rdT
  rdP := k.rdP.trans h.rdP
  entries := h.entries.trans k.entries
  counted := k.counted ∘ h.counted
  cyc := k.cyc ∘ h.cyc
  flags := k.flags ∘ h.flags

theorem CycleWork.warmup {s t : State} (h : CycleWork s t) : WarmupWork s t where
  rdT := h.rdT
  rdP := h.rdP
  entries := h.entries.mono (by decide)
  counted := h.counted
  cyc := fun hle => h.cyc.trans_le hle
  flags := h.flags

/-- A write of the step label and the accumulators, or of the cycle count within its range. -/
theorem StepEnds.of_accumulators {s : State} {D : State → Prop} (sp : SLabel) (a b : Word) {n : Nat} (hn : n ≤ 10)
    (hD : D { s with spc := sp, accT := a, accP := b, cyc := n }) :
    StepEnds s (WarmupWork s) D (.done { s with spc := sp, accT := a, accP := b, cyc := n }) :=
  .of_done (.of_sensor (by constructor <;> rfl) (by constructor <;> rfl) (by constructor <;> rfl) rfl rfl rfl id) rfl rfl
    ⟨rfl, rfl, fun _ _ => rfl, id, fun _ => hn, id⟩ hD

/-- A step of the reading cycle as part of the warm-up: the calibration and the cycle count stay. -/
theorem warmupStep {label : SLabel} {step : State → Run} {s : State} {D : State → Prop}
    (h : StepEnds { s with spc := label } (CycleWork { s with spc := label }) D (step { s with spc := label })) :
    StepEnds s (WarmupWork s) (fun t => D t ∧ t.calValid = s.calValid ∧ t.cyc = s.cyc) (sensorStep label step s) :=
  (sensorStep_cycle h).weaken (fun _ => CycleWork.warmup) fun _ hw hD => ⟨hD, hw.calValid, hw.cyc⟩

/-- One cycle of the warm-up, with a calibration and not yet ten cycles done. -/
theorem warmupCycle_ends (dev : DevAddr) {s : State} (ht : s.tpc = .t0) (hc : s.calValid = true) (hn : s.cyc + 1 ≤ 10) :
    StepEnds s (WarmupWork s) (fun t => t.calValid = true ∧ t.cyc = s.cyc + 1) (warmupCycle dev s) := by
  refine .andThen_trans .trans (warmupStep (reqmStep_cycle ht)) fun t₁ ht₁ _ ⟨⟨hm₁, _⟩, hc₁, hn₁⟩ => ?_
  refine .andThen_trans .trans (warmupStep (rdrtStep_cycle (ht₁.trans ht) hm₁))
    fun t₂ ht₂ _ ⟨⟨hm₂, _⟩, hc₂, hn₂⟩ => ?_
  have hcal₂ : t₂.calValid = true := by rw [hc₂, hc₁, hc]
  refine .andThen_trans .trans (warmupStep (cmptStep_cycle (fun _ => hm₂) hcal₂)) fun t₃ ht₃ _ ⟨⟨hm₃, _⟩, hc₃, hn₃⟩ => ?_
  have htpc₃ : t₃.tpc = .t0 := by rw [ht₃, ht₂, ht₁, ht]
  have hn₃' : t₃.cyc = s.cyc := by rw [hn₃, hn₂, hn₁]
  refine .andThen_trans .trans (D := fun t => t.measOk = true ∧ t.calValid = t₃.calValid ∧ t.cyc = t₃.cyc)
    (.of_accumulators .s5 (avg t₃.accT t₃.temp) t₃.accP (n := t₃.cyc) (by omega) ⟨hm₃.trans hm₂, rfl, rfl⟩)
    fun t₄ ht₄ _ ⟨hm₄, hc₄, hn₄⟩ => ?_
  refine .andThen_trans .trans (warmupStep (rdrpStep_cycle (ht₄.trans htpc₃) hm₄)) fun t₅ _ _ ⟨_, hc₅, hn₅⟩ => ?_
  refine .andThen_trans .trans (warmupStep cmppStep_cycle) fun t₆ _ _ ⟨_, hc₆, hn₆⟩ => ?_
  have hn₆' : t₆.cyc + 1 = s.cyc + 1 := by rw [hn₆, hn₅, hn₄, hn₃']
  refine .of_accumulators .s8 t₆.accT (avg t₆.accP t₆.press) (hn₆'.trans_le hn) ⟨?_, hn₆'⟩
  show t₆.calValid = true
  rw [hc₆, hc₅, hc₄, hc₃, hcal₂]

/-- The loop of SINIT. -/
theorem warmup_ends (dev : DevAddr) : ∀ (n : Nat) {s : State}, s.tpc = .t0 → s.calValid = true → s.cyc + n ≤ 10 →
    StepEnds s (WarmupWork s) (fun t => t.calValid = true ∧ t.cyc = s.cyc + n) (warmup dev n s)
  | 0, s, _, hc, _ => .of_done (.refl s) rfl rfl (.refl s) ⟨hc, rfl⟩
  | n + 1, s, ht, hc, hn => by
    refine .andThen_trans .trans (warmupCycle_ends dev ht hc (by omega)) fun t ht' _ ⟨hc', hcyc⟩ => ?_
    exact (warmup_ends dev n (ht'.trans ht) hc' (by omega)).weaken (fun _ => id) fun u _ ⟨hc'', hcyc'⟩ =>
      ⟨hc'', by omega⟩

/-- SINIT before its commit: S1, the seed, ten cycles. -/
def warmupWhole (dev : DevAddr) (s : State) : Run :=
  (sensorStep .s1 (ldcalStep dev) s).andThen fun s =>
  (loadSeed s).andThen fun s =>
  warmup dev warmupCycles s

/-- SINIT is its warm-up and the commit of the accumulators (R253). -/
theorem sinitBody_eq (dev : DevAddr) (s : State) :
    sinitBody dev s
      = (warmupWhole dev s).andThen fun s => .done { s with spc := .s0, rdT := s.accT, rdP := s.accP } := by
  simp only [warmupWhole, Run.andThen_assoc]
  rfl

/-- The calibration read (R190), alone or as S1: with the coefficients comes `CAL_VALID`, and `T_FINE` is as valid as before. -/
theorem ldcalStep_warmup (dev : DevAddr) {s : State} (ht : s.tpc = .t0) :
    StepEnds s (WarmupWork s) (fun t => t.calValid = true ∧ t.spc = s.spc) (ldcalStep dev s) := by
  have failed : ∀ t, SameSensor s t → SameEntriesFrom 24 s t → t.rxLen = 0#8 → WarmupWork s t :=
    fun t hs he h0 => ⟨hs.rdT, hs.rdP, he, fun _ => .inl h0, hs.cyc.trans_le, hs.cycleInv⟩
  refine (ldcalStep_ends dev s).mono ?_ ?_ ?_
  · rintro t ⟨hwork, herr, htpc, hspc, he, hcount, -, hc, -, hs⟩
    refine ⟨hwork, herr, htpc.trans ht.symm, ⟨hs.rdT, hs.rdP, he, fun _ => hcount, hs.cyc.trans_le, fun hi => ?_⟩, hc, hspc⟩
    exact hs.cycleInv ⟨hi.1, hi.2.1, fun hf => ⟨(hi.2.2 hf).1, hc⟩⟩
  · rintro t ⟨u, e, hwork, ⟨hs, he, h0⟩, hfail⟩
    exact ⟨u, e, hwork, failed u hs he h0, hfail⟩
  · rintro t ⟨hwork, ⟨hs, he, h0⟩, hhang⟩
    exact ⟨hwork, failed t hs he h0, hhang⟩

theorem warmupWhole_ends (dev : DevAddr) {s : State} (ht : s.tpc = .t0) :
    StepEnds s (WarmupWork s) (fun t => t.calValid = true ∧ t.cyc = 10) (warmupWhole dev s) := by
  refine .andThen_trans .trans (sensorStep_trans .trans ⟨rfl, rfl, fun _ _ => rfl, id, id, id⟩ (ldcalStep_warmup dev ht))
    fun t ht' _ ⟨hc, _⟩ => ?_
  refine .andThen_trans .trans (D := fun u => u.calValid = true ∧ u.cyc = 0)
    (.of_accumulators t.spc t.rdT t.rdP (by decide) ⟨hc, rfl⟩) fun u hu _ ⟨hc', h0⟩ => ?_
  refine (warmup_ends dev 10 (hu.trans (ht'.trans ht)) hc' (by omega)).weaken (fun _ => id) fun v _ ⟨hc'', hv⟩ => ?_
  exact ⟨hc'', by omega⟩

/-- What SINIT can do (R253): it commits the accumulators at its end, or the Reading is as it was. -/
theorem sinitBody_ends (dev : DevAddr) {s : State} (ht : s.tpc = .t0) :
    (sinitBody dev s).Ends
      (fun t => BodyWork s t ∧ t.err = s.err ∧ t.tpc = .t0 ∧ t.spc = .s0 ∧ t.rdT = t.accT ∧ t.rdP = t.accP
        ∧ t.calValid = true ∧ t.cyc = 10 ∧ WarmupWork { s with rdT := t.rdT, rdP := t.rdP } t)
      (fun t => ∃ u e, BodyWork s u ∧ WarmupWork s u ∧ ErrInfo.FitsLimit e s.cfg.waitLimit ∧ t = u.failWith e)
      (fun t => BodyWork s t ∧ WarmupWork s t ∧ s.cfg.waitLimit = .inf
        ∧ (t.err = s.err ∨ ∃ e, ErrInfo.FitsLimit e s.cfg.waitLimit ∧ t.err = e.word)) := by
  rw [sinitBody_eq]
  refine Run.Ends.andThen (warmupWhole_ends dev ht) fun t ⟨hwork, herr, htpc, hwarm, hc, hcyc⟩ => ?_
  refine ⟨hwork.trans (.of_sensor (by constructor <;> rfl) (by constructor <;> rfl) (by constructor <;> rfl) rfl rfl rfl
    id), herr, htpc.trans ht, rfl, rfl, rfl, hc, hcyc, ?_⟩
  exact { hwarm with rdT := rfl, rdP := rfl }

end Sys2Proof.Machine
end

section
/-! SUPPORT. What every command can do, and every step: the relation `CommandWork` and the ways a command's frame closes. -/

namespace Sys2Proof.Machine

open Sys2Proof.Config

/-- What the body of a command keeps of the counters and of the cycle flags. -/
def KeepsOrder (s t : State) : Prop := (s.CounterInv → t.CounterInv) ∧ (s.CycleInv → t.CycleInv)

theorem KeepsOrder.of_sensor {s t : State} (hs : SameSensor s t) (hc : Counted s → Counted t) : KeepsOrder s t :=
  ⟨fun h => ⟨hs.cyc.trans_le h.1, hc h.2⟩, hs.cycleInv⟩

theorem CycleWork.keepsOrder {s t : State} (h : CycleWork s t) : KeepsOrder s t :=
  ⟨fun hs => ⟨h.cyc.trans_le hs.1, h.counted hs.2⟩, h.flags⟩

theorem WarmupWork.keepsOrder {s t : State} (h : WarmupWork s t) : KeepsOrder s t :=
  ⟨fun hs => ⟨h.cyc hs.1, h.counted hs.2⟩, h.flags⟩

/-- A read transaction as the body of a command. -/
theorem memRead_step (dev : DevAddr) (reg : Byte) {count : Byte} (hcount : count ≠ 0#8) {s : State} (ht : s.tpc = .t0) :
    StepEnds s (fun t => SameSensor s t ∧ SameEntriesFrom count.toNat s t ∧ Counted t) (fun t => t.spc = s.spc)
      (memRead .protocolStatusMismatch dev reg count s) := by
  refine (memRead_ends (by decide) (by decide) dev reg count hcount s).mono ?_ ?_ ?_
  · rintro t ⟨hwork, herr, he, hlen, hidx, htpc⟩
    exact ⟨hwork.body, herr, htpc.trans ht.symm, ⟨hwork.sensor, he, .inr (hlen.trans hidx.symm)⟩, hwork.spc⟩
  · rintro t ⟨u, e, hwork, ⟨h0, he⟩, hfail⟩
    exact ⟨u, e, hwork.body, ⟨hwork.sensor, he, .inl h0⟩, hfail⟩
  · rintro t ⟨hwork, ⟨h0, he⟩, hhang⟩
    exact ⟨hwork.body, ⟨hwork.sensor, he, .inl h0⟩, hhang⟩

/-- Everything the body of an admitted command other than INIT can do. -/
theorem commandBody_ends {i : Instr} (hinit : i ≠ .init) {s : State} (ht : s.tpc = .t0) (hs : s.spc = .s0)
    (hadm : firstRefusal (commandChecks i s) = none) :
    StepEnds s (KeepsOrder s) (fun t => t.spc = .s0) (commandBody i s) := by
  have prim : ∀ {result data : Bool} {action : State → Waited}, ActionEnds result data s (action s) →
      StepEnds s (KeepsOrder s) (fun t => t.spc = .s0) (primitive action s) := fun ha =>
    (primitive_ends ha).weaken (fun _ h => .of_sensor h.1 h.2.1.counted) fun _ _ h => h.trans hs
  have read : ∀ dev reg (count : Byte), count ≠ 0#8 →
      StepEnds s (KeepsOrder s) (fun t => t.spc = .s0) (memRead .protocolStatusMismatch dev reg count s) :=
    fun dev reg count hc => (memRead_step dev reg hc ht).weaken (fun _ h => .of_sensor h.1 fun _ => h.2.2)
      fun _ _ h => h.trans hs
  have cycle : ∀ {D : State → Prop} {r : Run}, StepEnds s (CycleWork s) (fun t => D t ∧ t.spc = s.spc) r →
      StepEnds s (KeepsOrder s) (fun t => t.spc = .s0) r := fun h =>
    h.weaken (fun _ => CycleWork.keepsOrder) fun _ _ h => h.2.trans hs
  have checked := firstRefusal_eq_none.mp hadm
  cases i with
  | init => exact absurd rfl hinit
  | start | rstart => exact prim (busStart_actionEnds s)
  | stop => exact prim (busStop_actionEnds s)
  | wrb byte => exact prim (busSend_actionEnds byte s)
  | rdb ack => exact prim (busRecv_actionEnds ack s)
  | stat =>
    exact .of_done (.of_sensor (by constructor <;> rfl) (by constructor <;> rfl) (by constructor <;> rfl) rfl rfl rfl id)
      rfl rfl ⟨id, id⟩ hs
  | wreg dev reg value =>
    exact (memWrite_step dev reg value ht).weaken (fun _ ⟨hsame, _, hb, _⟩ => .of_sensor hsame hb.counted)
      fun _ ⟨_, hspc, _⟩ _ => hspc.trans hs
  | rreg dev reg => exact read dev reg 1#8 (by decide)
  | rburst dev reg count =>
    exact read dev reg count (bne_iff_ne.mp (checked _ List.mem_cons_self))
  | ldcal dev =>
    exact (ldcalStep_warmup dev ht).weaken (fun _ => WarmupWork.keepsOrder) fun _ _ h => h.2.trans hs
  | reqm dev => exact cycle (reqmStep_cycle ht)
  | rdrt dev => exact cycle (rdrtStep_cycle ht (checked (s.measOk, .orderViolation) (by simp [commandChecks])))
  | rdrp dev => exact cycle (rdrpStep_cycle ht (checked (s.measOk, .orderViolation) (by simp [commandChecks])))
  | cmpt =>
    have hc : s.calValid = true := checked s.needsCalibration (by simp [commandChecks])
    have hraw : s.rawTValid = true := checked (s.rawTValid, .orderViolation) (by simp [commandChecks])
    exact cycle (cmptStep_cycle (fun hi => hi.1 hraw) hc)
  | cmpp => exact cycle cmppStep_cycle
  | sinit dev =>
    refine (sinitBody_ends dev ht).mono ?_ ?_ ?_
    · rintro t ⟨hwork, herr, htpc, hspc, -, -, -, -, hwarm⟩
      exact ⟨hwork, herr, htpc.trans ht.symm, hwarm.keepsOrder, hspc⟩
    · rintro t ⟨u, e, hwork, hwarm, hfail⟩
      exact ⟨u, e, hwork, hwarm.keepsOrder, hfail⟩
    · rintro t ⟨hwork, hwarm, hhang⟩
      exact ⟨hwork, hwarm.keepsOrder, hhang⟩
  | sread dev =>
    have hc : s.calValid = true := checked s.needsCalibration (by simp [commandChecks])
    refine (sreadBody_ends dev ht hc).mono ?_ ?_ ?_
    · rintro t ⟨hwork, herr, htpc, hspc, -, -, hcycle⟩
      exact ⟨hwork, herr, htpc.trans ht.symm, hcycle.keepsOrder, hspc⟩
    · rintro t ⟨u, e, hwork, hcycle, hfail⟩
      exact ⟨u, e, hwork, hcycle.keepsOrder, hfail⟩
    · rintro t ⟨hwork, hcycle, hhang⟩
      exact ⟨hwork, hcycle.keepsOrder, hhang⟩

/-- How a command has left the machine under the limit `w` (R130, R274, R275, R281): in success, in failure with a record,
or hanging. -/
inductive Concluded (w : WaitLimit) (t : State) : Prop
  | succeeded (ok : t.ok = true) (fail : t.fail = false) (busy : t.busy = false) (err : t.err = 0#32)
      (labels : t.spc = .s0 ∧ t.tpc = .t0)
  | failed (e : ErrInfo) (fits : e.FitsLimit w) (ok : t.ok = false) (fail : t.fail = true) (busy : t.busy = false)
      (err : t.err = e.word) (labels : t.spc = .s0 ∧ t.tpc = .t0)
  | hangs (limit : w = .inf) (ok : t.ok = false) (fail : t.fail = false) (busy : t.busy = true)
      (err : t.err = 0#32 ∨ ∃ e, ErrInfo.FitsLimit e w ∧ t.err = e.word)

theorem concluded_refuse (w : WaitLimit) (s : State) {k : ErrKind} (hk : k ≠ .none ∧ k ≠ .busTimeout) :
    Concluded w (s.beginCommand.refuse k) :=
  .failed (ErrInfo.refusal k) ⟨hk.1, fun h => absurd h hk.2⟩ rfl rfl rfl rfl ⟨rfl, rfl⟩

/-- What an admitted command that began in `s` leaves. -/
theorem concluded_outcome {s : State} {I : State → Prop} {r : Run}
    (h : StepEnds s.beginCommand I (fun t => t.spc = .s0) r) :
    r.Ends (fun t => Concluded s.cfg.waitLimit t.succeed) (Concluded s.cfg.waitLimit) (Concluded s.cfg.waitLimit) := by
  refine h.mono ?_ ?_ ?_
  · rintro t ⟨hwork, herr, htpc, -, hspc⟩
    exact .succeeded rfl hwork.fail rfl herr ⟨hspc, htpc⟩
  · rintro t ⟨u, e, hwork, -, he, rfl⟩
    exact .failed e he hwork.ok rfl rfl rfl ⟨rfl, rfl⟩
  · rintro t ⟨hwork, -, hinf, herr⟩
    exact .hangs hinf hwork.ok hwork.fail hwork.busy herr

/-- Every command in every state is concluded in one of the three ways. -/
theorem exec_concluded {i : Instr} {s t : State} (h : exec i s = .next t) : Concluded s.cfg.waitLimit t := by
  refine exec_ends h (fun k hk => concluded_refuse _ s (refusal_kind hk)) fun hadm => ?_
  by_cases hinit : i = .init
  · subst hinit
    exact .succeeded rfl rfl rfl rfl ⟨rfl, rfl⟩
  · exact concluded_outcome (commandBody_ends hinit rfl rfl hadm)

theorem ErrKind.code_injective {k k' : ErrKind} (h : k.code = k'.code) : k = k' := by
  cases k <;> cases k' <;> simp [ErrKind.code] at h ⊢

/-- A record that names a kind is not 0 (R36). -/
theorem ErrInfo.word_ne_zero {e : ErrInfo} (h : e.kind ≠ .none) : e.word ≠ 0#32 := by
  intro hzero
  have hkind : (0#32 : Word).extractLsb' 0 4 = e.kind.code := hzero ▸ e.word_kind
  exact h (ErrKind.code_injective (k' := .none) (by rw [← hkind]; rfl))

section
variable {w : WaitLimit} {t : State}

theorem Concluded.outcomeInv (h : Concluded w t) : t.OutcomeInv := by
  cases h with
  | succeeded ok fail busy err labels => exact ⟨fun _ => labels, by simp [fail], by simp [busy], fun _ => err⟩
  | failed e _ ok fail busy err labels => exact ⟨fun _ => labels, by simp [ok], by simp [busy], by simp [ok]⟩
  | hangs _ ok fail busy _ => exact ⟨by simp [busy], by simp [ok], fun _ => ⟨ok, fail⟩, by simp [ok]⟩

theorem Concluded.errorInv (h : Concluded w t) : t.ErrorInv := by
  cases h with
  | succeeded ok fail busy err _ => exact ⟨.inl err, by simp [fail]⟩
  | failed e fits ok fail busy err _ => exact ⟨.inr ⟨e, fits.1, err⟩, fun _ => err ▸ ErrInfo.word_ne_zero fits.1⟩
  | hangs _ ok fail busy err =>
    refine ⟨?_, by simp [fail]⟩
    obtain herr | ⟨e, fits, herr⟩ := err
    · exact .inl herr
    · exact .inr ⟨e, fits.1, herr⟩

theorem ErrInfo.FitsLimit.kind_ne_timeout {e : ErrInfo} (h : e.FitsLimit .inf) : e.word.extractLsb' 0 4 ≠ 3#4 := by
  rw [ErrInfo.word_kind]
  intro hcode
  obtain ⟨n, hn⟩ := h.2 (ErrKind.code_injective (k' := .busTimeout) hcode)
  cases hn

/-- Without a bound on the wait no command records BusTimeout (R279). -/
theorem Concluded.kind_ne_timeout (h : Concluded .inf t) : t.err.extractLsb' 0 4 ≠ 3#4 := by
  cases h with
  | succeeded ok fail busy err _ => rw [err]; decide
  | failed e fits ok fail busy err _ => exact err ▸ fits.kind_ne_timeout
  | hangs _ ok fail busy err =>
    obtain herr | ⟨e, fits, herr⟩ := err
    · rw [herr]; decide
    · exact herr ▸ fits.kind_ne_timeout

theorem Concluded.not_busy {n : Nat} (h : Concluded (.finite n) t) : t.busy = false := by
  cases h with
  | succeeded _ _ busy _ _ => exact busy
  | failed _ _ _ _ busy _ _ => exact busy
  | hangs limit _ _ _ _ => cases limit

end

theorem exec_answers (i : Instr) (s : State) : ∃ t, exec i s = .next t := by
  rw [exec_eq_runCommand]
  obtain ⟨k, -, h⟩ | ⟨-, ⟨t, -, h⟩ | ⟨t, -, h⟩ | ⟨t, -, h⟩⟩ := runCommand_cases (commandChecks i) (commandBody i) s
  all_goals exact ⟨_, h⟩

/-- Settles O15: the frame always answers, and the three conclusions decide the rest. -/
theorem everyCommandAnswers : Obligations.EveryCommandAnswers := by
  unfold Obligations.EveryCommandAnswers
  intro i s
  obtain ⟨t, ht⟩ := exec_answers i s
  have hend := exec_concluded ht
  refine ⟨t, ht, fun ⟨n, hn⟩ => (hn ▸ hend).not_busy, fun hinf => (hinf ▸ hend).kind_ne_timeout, ?_, hend.outcomeInv.2.2.1⟩
  intro hbusy
  cases hend with
  | succeeded ok fail _ _ _ => simp [ok, fail]
  | failed _ _ ok fail _ _ _ => simp [ok, fail]
  | hangs _ _ _ busy _ => simp [hbusy] at busy

/-! ### Commands and steps on the registers -/

/-- What every command and every step but a Reset keeps. -/
structure CommandWork (s t : State) : Prop where
  cfg : t.cfg = s.cfg
  en : s.en = true → t.en = true
  calValid : s.calValid = true → t.calValid = true
  hist : ∃ events, t.hist = s.hist ++ events
  registers : s.RegisterInv → t.RegisterInv
  ownership : s.OwnershipInv → t.OwnershipInv
  buffer : s.BufferInv → t.BufferInv
  order : KeepsOrder s t

theorem BodyWork.command {s t : State} (h : BodyWork s t) (ho : KeepsOrder s t) : CommandWork s t :=
  ⟨h.held.cfg, h.en, h.calValid, h.hist, h.registers, h.ownership, h.buffer, ho⟩

theorem CommandWork.refl (s : State) : CommandWork s s := (BodyWork.refl s).command ⟨id, id⟩

theorem CommandWork.trans {s t u : State} (h : CommandWork s t) (k : CommandWork t u) : CommandWork s u where
  cfg := k.cfg.trans h.cfg
  en := k.en ∘ h.en
  calValid := k.calValid ∘ h.calValid
  hist := by
    obtain ⟨a, ha⟩ := h.hist
    obtain ⟨b, hb⟩ := k.hist
    exact ⟨a ++ b, by rw [hb, ha, List.append_assoc]⟩
  registers := k.registers ∘ h.registers
  ownership := k.ownership ∘ h.ownership
  buffer := k.buffer ∘ h.buffer
  order := ⟨k.order.1 ∘ h.order.1, k.order.2 ∘ h.order.2⟩

/-- The frame of a command, the inputs, the host's record and the seed take part in no invariant of the registers. -/
theorem CommandWork.of_frame (s : State) (ok fail busy : Bool) (err cmd rdT rdP : Word) (sp : SLabel) (tp : TLabel)
    (inputs : List Input) (log : List (Nat × Word)) :
    CommandWork s { s with
      ok := ok, fail := fail, busy := busy, err := err, cmd := cmd, rdT := rdT, rdP := rdP, spc := sp, tpc := tp
      inputs := inputs, hostLog := log } :=
  ⟨rfl, id, id, ⟨[], by simp⟩, id, id, id, id, id⟩

theorem CommandWork.of_begin (s : State) : CommandWork s s.beginCommand :=
  .of_frame s false false true 0#32 s.cmd s.rdT s.rdP .s0 .t0 s.inputs s.hostLog

theorem CommandWork.of_succeed (s : State) : CommandWork s s.succeed :=
  .of_frame s true s.fail false s.err s.cmd s.rdT s.rdP s.spc s.tpc s.inputs s.hostLog

theorem CommandWork.of_failWith (s : State) (e : ErrInfo) : CommandWork s (s.failWith e) :=
  .of_frame s s.ok true false e.word s.cmd s.rdT s.rdP .s0 .t0 s.inputs s.hostLog

theorem CommandWork.of_accept (s : State) (w : Word) (rest : List Input) : CommandWork s (s.accept w rest) :=
  .of_frame s s.ok s.fail s.busy s.err w s.rdT s.rdP s.spc s.tpc rest s.hostLog

@[simp] theorem withPrescale_and_mask (ps : BitVec 2) (st : Byte) : withPrescale ps st &&& 0xF8#8 = st &&& 0xF8#8 := by
  ext i hi
  interval_cases i <;> simp [withPrescale]

theorem withPrescale_and_reserved (ps : BitVec 2) (st : Byte) : withPrescale ps st &&& 0x04#8 = 0#8 := by
  ext i hi
  interval_cases i <;> simp [withPrescale]

/-- INIT sets `EN` and writes the prescaler, and no reserved bit (R21, R22, R132). -/
theorem CommandWork.of_init (s : State) :
    CommandWork s { s with
      bitrate := s.cfg.bitrateInit, status := withPrescale s.cfg.prescaleInit s.status, ctrl := s.ctrl ||| 0x04#8 } where
  cfg := rfl
  en := by simp [State.en]
  calValid := id
  hist := ⟨[], by simp⟩
  registers := by
    rintro ⟨hctrl, -, c, hc⟩
    refine ⟨?_, withPrescale_and_reserved _ _, c, (withPrescale_and_mask _ _).trans hc⟩
    show (s.ctrl ||| 0x04#8) &&& 0x0B#8 = 0#8
    have hbits : (0x04#8 &&& 0x0B#8 : Byte) = 0#8 := rfl
    rw [BitVec.and_comm, BitVec.and_or_distrib_left, BitVec.and_comm, hctrl, BitVec.and_comm, hbits]
    rfl
  ownership := id
  buffer := id
  order := ⟨id, id⟩

/-- The work of an admitted command's body. -/
theorem commandBody_work (i : Instr) (s : State) (hadm : firstRefusal (commandChecks i s.beginCommand) = none) :
    (commandBody i s.beginCommand).Ends (fun t => CommandWork s t.succeed) (CommandWork s) (CommandWork s) := by
  have hbegin := CommandWork.of_begin s
  by_cases hinit : i = .init
  · subst hinit
    exact (hbegin.trans (.of_init _)).trans (.of_succeed _)
  · refine (commandBody_ends hinit rfl rfl hadm).mono ?_ ?_ ?_
    · rintro t ⟨hwork, -, -, horder, -⟩
      exact (hbegin.trans (hwork.command horder)).trans (.of_succeed t)
    · rintro t ⟨u, e, hwork, horder, -, rfl⟩
      exact (hbegin.trans (hwork.command horder)).trans (.of_failWith u e)
    · rintro t ⟨hwork, horder, -⟩
      exact hbegin.trans (hwork.command horder)

theorem exec_work {i : Instr} {s t : State} (h : exec i s = .next t) : CommandWork s t :=
  exec_ends h (fun _ _ => (CommandWork.of_begin s).trans (.of_failWith _ _)) (commandBody_work i s)

/-! ### One step -/

/-- The ways a step goes: a Reset; a command; an illegal word; or nothing but the inputs, the host's record and, while no
command hangs, the seed registers changes. -/
inductive StepCase (s t : State) : Prop
  | reset (rest : List Input) (input : s.inputs = .reset :: rest) (result : t = s.takeReset rest)
  | command (w : Word) (rest : List Input) (i : Instr) (idle : s.busy = false) (word : decode w = .ok i)
      (result : exec i (s.accept w rest) = .next t)
  | illegal (w : Word) (rest : List Input) (idle : s.busy = false)
      (result : t = (s.accept w rest).beginCommand.refuse .illegalCommand)
  | quiet (rdT rdP : Word) (log : List (Nat × Word)) (seed : s.busy = true → rdT = s.rdT ∧ rdP = s.rdP)
      (result : t = { s with inputs := s.inputs.tail, hostLog := log, rdT := rdT, rdP := rdP })

/-- A host write to a register other than CMD writes a seed register or nothing (R73). -/
theorem State.hostWrite_eq_some {s t : State} {n : Nat} {v : Word} (h : s.hostWrite n v = some t) :
    t = { s with rdT := if n = 14 then v else s.rdT, rdP := if n = 15 then v else s.rdP } := by
  unfold State.hostWrite at h
  split at h
  · cases h
    simp
  · cases h
    simp
  · rename_i h14 h15
    obtain ⟨_, _, rfl⟩ := Option.map_eq_some_iff.mp h
    rw [if_neg h14, if_neg h15]

section
variable {s : State} {n : Nat} {v : Word} {rest : List Input}

theorem step_of_idle (hidle : s.busy = false) (h : s.inputs = []) : step s = .next s := by
  simp [step, fetch, h, hidle]

/-- The stuck state of R281. -/
theorem step_of_hung (hbusy : s.busy = true) (h : s.inputs = []) : step s = .fault .hung := by
  simp [step, fetch, h, hbusy]

theorem step_of_hostRead_some (h : s.inputs = .hostRead n :: rest) (hv : s.hostRead n = some v) :
    step s = .next { s with inputs := rest, hostLog := s.hostLog ++ [(n, v)] } := by
  simp [step, fetch, h, fetchRead, hv]

/-- While a command hangs the host's write is lost (R281). -/
theorem step_of_hostWrite_busy (hbusy : s.busy = true) (h : s.inputs = .hostWrite n v :: rest) :
    step s = .next { s with inputs := rest } := by
  rw [step, fetch, h]
  simp only [fetchWrite, hbusy, if_true]

end

theorem stepCase_of_next {s t : State} (h : step s = .next t) : StepCase s t := by
  cases hi : s.inputs with
  | nil =>
    cases hb : s.busy with
    | true => cases (step_of_hung hb hi).symm.trans h
    | false =>
      cases (step_of_idle hb hi).symm.trans h
      exact .quiet s.rdT s.rdP s.hostLog (fun _ => ⟨rfl, rfl⟩) (by rw [hi, List.tail_nil, ← hi])
  | cons input rest =>
    have htail : rest = s.inputs.tail := by rw [hi, List.tail_cons]
    cases input with
    | reset => exact .reset rest hi (by cases (step_of_reset hi).symm.trans h; rfl)
    | hostRead n =>
      cases hr : s.hostRead n with
      | none => cases (step_of_hostRead_none hi hr).symm.trans h
      | some v =>
        cases (step_of_hostRead_some hi hr).symm.trans h
        exact .quiet s.rdT s.rdP _ (fun _ => ⟨rfl, rfl⟩) (by rw [htail])
    | hostWrite n v =>
      cases hb : s.busy with
      | true =>
        cases (step_of_hostWrite_busy hb hi).symm.trans h
        exact .quiet s.rdT s.rdP s.hostLog (fun _ => ⟨rfl, rfl⟩) (by rw [htail])
      | false =>
        by_cases h0 : n = 0
        · subst h0
          cases hw : decode v with
          | ok i => exact .command v rest i hb hw ((step_of_command hb hi hw).symm.trans h)
          | error e =>
            cases (step_of_illegal_word hb hi hw).symm.trans h
            exact .illegal v rest hb rfl
        · cases hw : s.hostWrite n v with
          | none => cases (step_of_hostWrite_none hb hi h0 hw).symm.trans h
          | some u =>
            cases (step_of_hostWrite_some hb hi h0 hw).symm.trans h
            rw [State.hostWrite_eq_some hw]
            exact .quiet _ _ s.hostLog (by simp [hb]) (by rw [htail])

/-- A step is a Reset, or it keeps what a command keeps. -/
theorem step_work {s t : State} (h : step s = .next t) :
    (∃ rest, s.inputs = .reset :: rest ∧ t = s.takeReset rest) ∨ CommandWork s t := by
  cases stepCase_of_next h with
  | reset rest input result => exact .inl ⟨rest, input, result⟩
  | command w rest i _ _ result => exact .inr ((CommandWork.of_accept s w rest).trans (exec_work result))
  | illegal w rest _ result =>
    subst result
    exact .inr ((CommandWork.of_accept s w rest).trans ((CommandWork.of_begin _).trans (.of_failWith _ _)))
  | quiet rdT rdP log _ result =>
    subst result
    exact .inr (.of_frame s s.ok s.fail s.busy s.err s.cmd rdT rdP s.spc s.tpc s.inputs.tail log)

/-- Settles O52: `takeReset` keeps the parameters, and any other step is `CommandWork`. -/
theorem onlyResetClearsEnableAndCalibration : Obligations.OnlyResetClearsEnableAndCalibration := by
  unfold Obligations.OnlyResetClearsEnableAndCalibration
  intro s t h
  obtain ⟨rest, hinput, rfl⟩ | hwork := step_work h
  · exact ⟨rfl, fun hno => absurd hinput (hno rest)⟩
  · exact ⟨hwork.cfg, fun _ => ⟨hwork.en, hwork.calValid⟩⟩

/-- Settles O53: events are only appended by a step that is no Reset. -/
theorem historyOnlyGrows : Obligations.HistoryOnlyGrows := by
  unfold Obligations.HistoryOnlyGrows
  intro s t h hno
  obtain ⟨rest, hinput, -⟩ | hwork := step_work h
  · exact absurd hinput (hno rest)
  · exact hwork.hist

/-! ### The invariants -/

section
variable (cfg : Params)

theorem bufferInv_resetWith : (State.resetWith cfg).BufferInv := rfl

theorem counterInv_resetWith : (State.resetWith cfg).CounterInv := ⟨Nat.zero_le 10, .inl rfl⟩

theorem registerInv_resetWith : (State.resetWith cfg).RegisterInv := by
  refine ⟨?_, ?_, .noInfo, ?_⟩ <;> simp [State.code, State.resetWith, StatusCode.byte]

theorem ownershipInv_resetWith : (State.resetWith cfg).OwnershipInv := ⟨rfl, nofun⟩

theorem cycleInv_resetWith : (State.resetWith cfg).CycleInv := ⟨nofun, nofun, nofun⟩

theorem outcomeInv_resetWith : (State.resetWith cfg).OutcomeInv := by
  simp [State.OutcomeInv, State.resetWith]

theorem errorInv_resetWith : (State.resetWith cfg).ErrorInv := ⟨.inl rfl, nofun⟩

theorem enableInv_resetWith : (State.resetWith cfg).EnableInv := fun _ => ⟨rfl, rfl, rfl, rfl⟩

end

/-- Settles O60: the invariants one by one. -/
theorem resetMeetsEveryInvariant : Obligations.ResetMeetsEveryInvariant := by
  unfold Obligations.ResetMeetsEveryInvariant
  exact fun cfg => ⟨bufferInv_resetWith cfg, registerInv_resetWith cfg, ownershipInv_resetWith cfg, cycleInv_resetWith cfg,
    outcomeInv_resetWith cfg, errorInv_resetWith cfg, enableInv_resetWith cfg, counterInv_resetWith cfg⟩

/-- An invariant of the registers that the reset state meets and `CommandWork` keeps is kept by every step. -/
theorem step_keeps {P : State → Prop} {s t : State} (hs : P s) (h : step s = .next t)
    (hreset : ∀ rest, P (s.takeReset rest)) (hwork : CommandWork s t → P s → P t) : P t := by
  obtain ⟨rest, -, rfl⟩ | hcommand := step_work h
  · exact hreset rest
  · exact hwork hcommand hs

/-- Settles O54: the buffer and the counters are parts of `CommandWork`. -/
theorem stepKeepsBufferAndCounters : Obligations.StepKeepsBufferAndCounters := by
  unfold Obligations.StepKeepsBufferAndCounters
  exact fun s t hb hc h =>
    ⟨step_keeps hb h (fun _ => bufferInv_resetWith s.cfg) CommandWork.buffer,
      step_keeps hc h (fun _ => counterInv_resetWith s.cfg) fun hwork => hwork.order.1⟩

/-- Settles O55: `CommandWork` keeps the registers legal. -/
theorem stepKeepsRegisters : Obligations.StepKeepsRegisters := by
  unfold Obligations.StepKeepsRegisters
  exact fun s t hs h => step_keeps hs h (fun _ => registerInv_resetWith s.cfg) CommandWork.registers

/-- Settles O56: `CommandWork` keeps the phase in step with the history. -/
theorem stepKeepsOwnership : Obligations.StepKeepsOwnership := by
  unfold Obligations.StepKeepsOwnership
  exact fun s t hs h => step_keeps hs h (fun _ => ownershipInv_resetWith s.cfg) CommandWork.ownership

/-- Settles O57: `CommandWork` keeps the cycle flags in order. -/
theorem stepKeepsCycleFlags : Obligations.StepKeepsCycleFlags := by
  unfold Obligations.StepKeepsCycleFlags
  exact fun s t hs h => step_keeps hs h (fun _ => cycleInv_resetWith s.cfg) fun hwork => hwork.order.2

/-- Settles O58: a command or an illegal word is concluded in one of three ways; a Reset and a quiet step start no command. -/
theorem stepKeepsOutcomeAndErrorRecord : Obligations.StepKeepsOutcomeAndErrorRecord := by
  unfold Obligations.StepKeepsOutcomeAndErrorRecord
  intro s t houtcome herror h
  have concluded : ∀ {w : WaitLimit}, Concluded w t → t.OutcomeInv ∧ t.ErrorInv := fun h => ⟨h.outcomeInv, h.errorInv⟩
  cases stepCase_of_next h with
  | reset rest _ result =>
    subst result
    exact ⟨outcomeInv_resetWith s.cfg, errorInv_resetWith s.cfg⟩
  | command w rest i _ _ result => exact concluded (exec_concluded result)
  | illegal w rest _ result =>
    subst result
    exact concluded (concluded_refuse s.cfg.waitLimit _ (by decide))
  | quiet rdT rdP log _ result =>
    subst result
    exact ⟨houtcome, herror⟩

/-- While `EN` is 0 every command but INIT is refused, and INIT sets it (R274, R303). -/
theorem exec_enableInv {i : Instr} {s t : State} (hwf : i.wf = true) (hs : s.EnableInv) (h : exec i s = .next t) :
    t.EnableInv := by
  intro hen
  have hen' : s.en = false := by
    cases hcase : s.en with
    | false => rfl
    | true => rw [(exec_work h).en hcase] at hen; cases hen
  by_cases hinit : i = .init
  · subst hinit
    cases (exec_init s).symm.trans h
    simp [State.en] at hen
  · cases (exec_of_not_enabled hwf hen' hinit).symm.trans h
    exact hs hen'

/-- Settles O59: only a command could touch the bus or set a flag, and it is refused. -/
theorem busAndFlagsUntouchedBeforeInit : Obligations.BusAndFlagsUntouchedBeforeInit := by
  unfold Obligations.BusAndFlagsUntouchedBeforeInit
  intro s t hs h
  cases stepCase_of_next h with
  | reset rest _ result =>
    subst result
    exact enableInv_resetWith s.cfg
  | command w rest i _ word result => exact exec_enableInv (wf_of_decode word) (s := s.accept w rest) hs result
  | illegal w rest _ result =>
    subst result
    exact hs
  | quiet rdT rdP log _ result =>
    subst result
    exact hs

end Sys2Proof.Machine
end

section
/-! SUPPORT. The host's registers and accesses (spec/20_memory.md R71 to R73, spec/10_state.md R32), and the step that takes
one (spec/60_exceptions.md R281). -/

namespace Sys2Proof.Machine

/-! ### Commands written to CMD -/

/-- The whole effect of a refusal between commands (R274): the labels and BUSY are as they were. -/
theorem refuse_of_idle {s : State} (hbusy : s.busy = false) (hspc : s.spc = .s0) (htpc : s.tpc = .t0) (k : ErrKind) :
    s.beginCommand.refuse k = { s with ok := false, fail := true, err := k.code.setWidth 32 } := by
  rw [State.refuse, State.failWith, ErrInfo.refusal_word]
  simp [State.beginCommand, hbusy, hspc, htpc]

theorem withFetchWord_toNat (s : State) (w : Word) : s.withFetchWord 32 w.toNat = s.placeCommand w := by
  rw [State.withFetchWord, Nat.mod_eq_of_lt w.isLt, BitVec.ofNat_toNat, BitVec.setWidth_eq]

/-- Settles O1: `step_of_command`, for a write that is there and for one that `withFetchWord` places. -/
theorem stepRunsDecodedCommand : Obligations.StepRunsDecodedCommand := by
  unfold Obligations.StepRunsDecodedCommand
  intro s w rest i hw
  refine ⟨fun hidle hinput => step_of_command hidle hinput hw, ?_⟩
  rw [withFetchWord_toNat]
  exact step_of_command (s := s.placeCommand w) rfl rfl hw

/-- Settles O2: the word is refused before any check of a command, and a refusal touches nothing but the frame. -/
theorem illegalWordIsRefusedWithoutEffect : Obligations.IllegalWordIsRefusedWithoutEffect := by
  unfold Obligations.IllegalWordIsRefusedWithoutEffect
  intro s w rest e hbusy hspc htpc hinput hw
  rw [step_of_illegal_word hbusy hinput hw, refuse_of_idle (s := s.accept w rest) hbusy hspc htpc]
  rfl

/-! ### The register map -/

theorem Calib.hostWord_isSome (c : Calib) {k : Nat} (h : k < 12) : (c.hostWord k).isSome = true := by
  interval_cases k <;> rfl

theorem State.hostRead_rxbuf (s : State) {k : Nat} (h : k < 255) :
    s.hostRead (256 + k) = some ((s.rxbuf.read k).setWidth 32) := by
  obtain ⟨m, hm⟩ : ∃ m, 256 + k = m + 18 := ⟨238 + k, by omega⟩
  have hk : m + 18 - 256 = k := by omega
  rw [hm, State.hostRead_add_18, if_neg (by omega), if_pos (by omega), hk]

/-- A number has a value if and only if it is mapped (R71, R74). -/
theorem State.hostRead_isSome_iff (s : State) (n : Nat) :
    (s.hostRead n).isSome = true ↔ n ≤ 17 ∨ (32 ≤ n ∧ n ≤ 43) ∨ (256 ≤ n ∧ n ≤ 510) := by
  obtain hnamed | hrest := Nat.lt_or_ge n 18
  · have hsome : (s.hostRead n).isSome = true := by interval_cases n <;> rfl
    simp only [hsome, true_iff]
    omega
  · obtain ⟨m, rfl⟩ := Nat.exists_eq_add_of_le' hrest
    rw [State.hostRead_add_18]
    split
    · simp only [s.cal.hostWord_isSome (show m + 18 - 32 < 12 by omega), true_iff]
      omega
    · split
      · simp only [Option.isSome_some, true_iff]
        omega
      · simp only [Option.isSome_none, Bool.false_eq_true, false_iff]
        omega

/-- Settles O5: the named registers and the coefficients by the map's own equations, RXBUF by `hostRead_rxbuf`. -/
theorem hostRegisterMap : Obligations.HostRegisterMap := by
  unfold Obligations.HostRegisterMap
  intro s
  iterate 30 refine ⟨rfl, ?_⟩
  exact ⟨fun k => s.hostRead_rxbuf, s.hostRead_isSome_iff⟩

/-- Settles O6: the fields of HSTAT lie at disjoint bit positions. -/
theorem hstatBits : Obligations.HstatBits := by
  unfold Obligations.HstatBits
  intro s
  refine ⟨?_, ?_, ?_, ?_, ?_, ?_, ?_, ?_, ?_, ?_, ?_, ?_, ?_⟩
  case refine_11 =>
    ext i hi
    interval_cases i <;> simp [State.hstat, flagBit]
  case refine_12 =>
    ext i hi
    interval_cases i
    simp [State.hstat, flagBit]
  case refine_13 =>
    ext i hi
    interval_cases i <;> simp [State.hstat, flagBit]
  all_goals simp [State.hstat, flagBit, State.en]

/-! ### Host accesses -/

theorem State.hostWrite_isSome (s : State) (n : Nat) (v : Word) : (s.hostWrite n v).isSome = (s.hostRead n).isSome := by
  unfold State.hostWrite
  split
  · rfl
  · rfl
  · rw [Option.isSome_map]

/-- Settles O7: a mapped number has a value, so a read answers it and a write finds its register. -/
theorem hostAccesses : Obligations.HostAccesses := by
  unfold Obligations.HostAccesses
  intro s n v rest hmapped
  have hsome := (s.hostRead_isSome_iff n).mpr hmapped
  obtain ⟨w, hread⟩ := Option.isSome_iff_exists.mp hsome
  obtain ⟨t, hwrite⟩ := Option.isSome_iff_exists.mp ((s.hostWrite_isSome n v).trans hsome)
  refine ⟨fun hinput => ⟨w, hread, step_of_hostRead_some hinput hread⟩, fun hidle hinput h0 => ?_⟩
  rw [step_of_hostWrite_some hidle hinput h0 hwrite, State.hostWrite_eq_some hwrite]

/-- Settles O9: while BUSY is 1 a step that is no Reset is quiet and leaves the seed too; with no input it is stuck. -/
theorem onlyResetEndsAHang : Obligations.OnlyResetEndsAHang := by
  unfold Obligations.OnlyResetEndsAHang
  intro s hbusy
  refine ⟨fun t h hno => ?_, step_of_hung hbusy⟩
  cases stepCase_of_next h with
  | reset rest input _ => exact absurd input (hno rest)
  | command _ _ _ idle _ _ => simp [hbusy] at idle
  | illegal _ _ idle _ => simp [hbusy] at idle
  | quiet rdT rdP log seed result =>
    obtain ⟨rfl, rfl⟩ := seed hbusy
    rw [result]

end Sys2Proof.Machine
end

section
/-! SUPPORT. Refusals (spec/60_exceptions.md R274) and the bus primitives (spec/40_bus_primitives.md R131 to R138): what each
leaves for every answer of the environment. -/

namespace Sys2Proof.Machine

open Sys2Proof.Config

/-! ### Refusals -/

theorem State.mayWrite_iff (s : State) : s.mayWrite = true ↔ s.owned = true ∧ (s.phase = .started ∨ s.dir = .w) := by
  simp [State.mayWrite]

theorem State.mayRead_iff (s : State) :
    s.mayRead = true ↔ (s.phase = .addrSent ∨ s.phase = .dataPhase) ∧ s.dir = .r := by
  simp [State.mayRead]

section
variable {s : State} (hbusy : s.busy = false) (hspc : s.spc = .s0) (htpc : s.tpc = .t0)
include hbusy hspc htpc

theorem exec_refused_of_idle {i : Instr} {k : ErrKind} (h : firstRefusal (commandChecks i s.beginCommand) = some k) :
    exec i s = .next { s with ok := false, fail := true, err := k.code.setWidth 32 } := by
  rw [exec_of_refused h, refuse_of_idle hbusy hspc htpc]

end

/-- Settles O14: the first check that fails is the one named, and a refusal of an idle controller touches the frame only. -/
theorem refusalsInOrder : Obligations.RefusalsInOrder := by
  unfold Obligations.RefusalsInOrder
  intro s i hwf hbusy hspc htpc refused
  have refuse : ∀ {k : ErrKind}, firstRefusal (commandChecks i s.beginCommand) = some k →
      exec i s = refused (k.code.setWidth 32) := exec_refused_of_idle hbusy hspc htpc
  refine ⟨fun hen hinit => ?disabled, fun hen hcal hi => ?calibration, fun hen hi hmay => ?write, fun hen hi hmay => ?read,
    fun hen hi hmeas => ?raw, fun hen hcal hi hraw => ?temperature, fun hen hcal hi hcodes => ?pressure⟩
  case disabled =>
    rw [exec_of_not_enabled hwf hen hinit, refuse_of_idle hbusy hspc htpc]
    rfl
  case calibration =>
    obtain rfl | rfl | ⟨dev, rfl⟩ := hi
    all_goals
      exact refuse (k := .calibrationUnavailable)
        (by simp [commandChecks, State.needsEnable, State.needsCalibration, hen, hcal])
  case write =>
    obtain ⟨b, rfl⟩ := hi
    rw [← State.mayWrite_iff] at hmay
    exact refuse (k := .sequenceViolation) (by simp [commandChecks, State.needsEnable, hen, hmay])
  case read =>
    obtain ⟨a, rfl⟩ := hi
    rw [← State.mayRead_iff] at hmay
    exact refuse (k := .sequenceViolation) (by simp [commandChecks, State.needsEnable, hen, hmay])
  case raw =>
    obtain ⟨dev, rfl⟩ | ⟨dev, rfl⟩ := hi
    all_goals exact refuse (k := .orderViolation) (by simp [commandChecks, State.needsEnable, hen, hmeas])
  case temperature =>
    subst hi
    exact refuse (k := .orderViolation)
      (by simp [commandChecks, State.needsEnable, State.needsCalibration, hen, hcal, hraw])
  case pressure =>
    subst hi
    have hflags : (s.rawPValid && s.tFineValid) = false := Bool.and_eq_false_iff.mpr hcodes
    exact refuse (k := .orderViolation)
      (by simp [commandChecks, State.needsEnable, State.needsCalibration, hen, hcal, hflags])

/-! ### INIT and STAT -/

theorem withPrescale_withPrescale (ps : BitVec 2) (st : Byte) :
    withPrescale ps (withPrescale ps st) = withPrescale ps st := by
  rw [withPrescale, withPrescale_and_mask]
  rfl

/-- Settles O16: INIT writes the same values again, over its own. -/
theorem initConfiguresAndEnables : Obligations.InitConfiguresAndEnables := by
  unfold Obligations.InitConfiguresAndEnables
  intro s
  refine ⟨_, exec_init s, rfl, by simp [State.en], ?_⟩
  rw [exec_init]
  simp [initBody, Run.outcome, State.succeed, State.beginCommand, withPrescale_withPrescale, BitVec.or_assoc]

/-- `EN` is the only check of STAT and of the primitives that put a condition on the bus. -/
theorem admitted_of_enabled {i : Instr} {s : State} (hen : s.en = true)
    (hi : i = .start ∨ i = .rstart ∨ i = .stop ∨ i = .stat) : firstRefusal (commandChecks i s.beginCommand) = none := by
  obtain rfl | rfl | rfl | rfl := hi
  all_goals simp [commandChecks, State.needsEnable, hen]

/-- Settles O21. -/
theorem statResult : Obligations.StatResult := by
  unfold Obligations.StatResult
  intro s hen
  rw [exec_of_admitted (admitted_of_enabled hen (by simp))]
  rfl

/-! ### One bus action -/

section
variable {i : Instr} {s : State} {action : State → Waited}
  (hadm : firstRefusal (commandChecks i s.beginCommand) = none) (hbody : commandBody i = primitive action)
include hadm hbody

theorem exec_of_completed {t : State} (h : action s.beginCommand = .completed t) : exec i s = .next t.succeed := by
  rw [exec_of_admitted hadm, hbody, primitive, h]
  rfl

/-- An action that is never answered, the state as its trigger left it being `v` with the command's frame open. -/
theorem exec_of_unanswered {v : State} (h : action s.beginCommand = (v.hangingAt .s0 .t0).unanswered) :
    (v.cfg.waitLimit = .inf → exec i s = .next (v.hangingAt .s0 .t0))
    ∧ ∀ n, v.cfg.waitLimit = .finite n → exec i s = .next (v.endedFailed 3#32) := by
  rw [exec_of_admitted hadm, hbody, primitive, h]
  constructor
  · intro hw
    have hw' : (v.hangingAt .s0 .t0).cfg.waitLimit = .inf := hw
    rw [State.unanswered, hw']
    rfl
  · intro n hw
    have hw' : (v.hangingAt .s0 .t0).cfg.waitLimit = .finite n := hw
    rw [State.unanswered, hw']
    show Host.Outcome.next ((v.hangingAt .s0 .t0).failWith (.refusal .busTimeout)) = _
    rw [State.failWith, ErrInfo.refusal_word]
    rfl

end

/-- A primitive whose start, send or receive was answered: the trigger value with the completion flag, the code over the
trigger's `NO_INFO`, and the frame of a success (R130, R131). -/
theorem succeed_answered (s : State) (ctrl : Byte) (c : StatusCode) (p : Phase) (d : Dir) (e : BusEvent) :
    ((s.beginCommand.trigger ctrl).asked.complete c p d e).succeed = { s.finished with
      ctrl := ctrl ||| 0x80#8, status := c.byte ||| (s.status &&& 0x03#8), phase := p, dir := d, hist := s.hist ++ [e]
      answers := s.answers.tail, busCount := s.busCount + 1 } := by
  rw [← withCode_eq, ← withCode_withCode c .noInfo]
  rfl

/-- The code of a bus error is 0 (R139). -/
theorem busError_byte_or (b : Byte) : StatusCode.busError.byte ||| b = b := BitVec.zero_or

theorem startCode_byte (owned : Bool) : (startCode owned).byte = if owned then 0x10#8 else 0x08#8 := by
  cases owned <;> rfl

/-- Settles O17: `busStart` for the two answers. -/
theorem startAndRstartResult : Obligations.StartAndRstartResult := by
  unfold Obligations.StartAndRstartResult
  intro i s hi hen
  have hadm : firstRefusal (commandChecks i s.beginCommand) = none := admitted_of_enabled hen (by tauto)
  have hbody : commandBody i = primitive busStart := by
    obtain rfl | rfl := hi
    all_goals rfl
  constructor
  · intro hreply
    rw [exec_of_completed hadm hbody (by rw [busStart, State.beginCommand_startReply, hreply]), succeed_answered,
      State.beginCommand_owned, startCode_byte]
    rfl
  · intro hreply
    rw [exec_of_completed hadm hbody (by rw [busStart, State.beginCommand_startReply, hreply]), succeed_answered,
      busError_byte_or]
    rfl

/-- Settles O18: an owned stop asks the environment, one that is not owned does not. -/
theorem stopResult : Obligations.StopResult := by
  unfold Obligations.StopResult
  intro s hen
  have hadm := admitted_of_enabled (i := .stop) hen (by simp)
  constructor
  · intro howned hreply
    rw [exec_of_completed hadm rfl (by
      rw [busStop, State.beginCommand_owned, if_pos howned, State.beginCommand_stopReply, hreply])]
    simp [State.released, State.trigger, State.asked, State.succeed, State.finished, withCode_eq, StatusCode.byte]
  · intro howned
    rw [exec_of_completed hadm rfl (by rw [busStop, State.beginCommand_owned, howned, if_neg (by decide)])]
    simp [State.released, State.trigger, State.succeed, State.finished, withCode_eq, StatusCode.byte]

theorem wrb_admitted {b : Byte} {s : State} (hen : s.en = true) (howned : s.owned = true)
    (hmay : s.phase = .started ∨ s.dir = .w) : firstRefusal (commandChecks (.wrb b) s.beginCommand) = none := by
  have hwrite := s.mayWrite_iff.mpr ⟨howned, hmay⟩
  simp [commandChecks, State.needsEnable, hen, hwrite]

theorem rdb_admitted {ack : Bool} {s : State} (hen : s.en = true) (hphase : s.phase = .addrSent ∨ s.phase = .dataPhase)
    (hdir : s.dir = .r) : firstRefusal (commandChecks (.rdb ack) s.beginCommand) = none := by
  have hread := s.mayRead_iff.mpr ⟨hphase, hdir⟩
  simp [commandChecks, State.needsEnable, hen, hread]

theorem addrCode_byte (b : Byte) (a : Bool) : (addrCode (dirOfAddr b) a).byte
    = if b.getLsbD 0 then (if a then 0x40#8 else 0x48#8) else (if a then 0x18#8 else 0x20#8) := by
  unfold dirOfAddr
  cases b.getLsbD 0 <;> cases a <;> rfl

theorem sentCode_byte (a : Bool) : (sentCode a).byte = if a then 0x28#8 else 0x30#8 := by
  cases a <;> rfl

theorem recvCode_byte (a : Bool) : (recvCode a).byte = if a then 0x50#8 else 0x58#8 := by
  cases a <;> rfl

/-- Both answers of a device complete a send (R136). -/
theorem busSend_of_answer {b : Byte} {s : State} {a : Bool} (h : s.sendReply b = if a then .ack else .nack) :
    busSend b s = .completed ((s.sendTriggered b).sent b a) := by
  cases a <;> simp only [busSend, h] <;> rfl

/-- Settles O19: the byte after a start is an address byte, any other is a data byte. -/
theorem wrbResult : Obligations.WrbResult := by
  unfold Obligations.WrbResult
  intro b s hen howned hmay sent ps
  have hadm := wrb_admitted (b := b) hen howned hmay
  have answered := succeed_answered { s with data := b } 0x04#8
  refine ⟨fun a hreply hphase => ?_, fun a hreply hphase => ?_, fun hreply => ?_, fun hreply => ?_⟩
  · rw [exec_of_completed hadm rfl (busSend_of_answer hreply),
      State.sent_of_address (s := s.beginCommand.sendTriggered b) hphase, ← addrCode_byte]
    exact congrArg _ (answered _ _ _ _)
  · rw [exec_of_completed hadm rfl (busSend_of_answer hreply),
      State.sent_of_data (s := s.beginCommand.sendTriggered b) hphase, ← sentCode_byte]
    exact congrArg _ (answered _ _ _ _)
  · rw [exec_of_completed hadm rfl (by rw [busSend, State.beginCommand_sendReply, hreply])]
    exact congrArg _ (answered _ _ _ _)
  · rw [exec_of_completed hadm rfl (by rw [busSend, State.beginCommand_sendReply, hreply]), ← busError_byte_or ps]
    exact congrArg _ (answered _ _ _ _)

/-- The trigger of a receive with the completion flag (R137). -/
theorem recvCtrl_completed (ack : Bool) : recvCtrl ack ||| 0x80#8 = if ack then 0xC4#8 else 0x84#8 := by
  cases ack <;> rfl

/-- Settles O20. -/
theorem rdbResult : Obligations.RdbResult := by
  unfold Obligations.RdbResult
  intro ack s hen hphase hdir asked ps
  have hadm := rdb_admitted (ack := ack) hen hphase hdir
  have answered := fun d r => succeed_answered { s with data := d, result := r } (recvCtrl ack)
  rw [recvCtrl_completed] at answered
  refine ⟨fun v hreply => ?_, fun hreply => ?_, fun hreply => ?_⟩
  · rw [exec_of_completed hadm rfl (by rw [busRecv, State.beginCommand_recvReply, hreply]), ← recvCode_byte]
    exact congrArg _ (answered v v _ _ _ _)
  · rw [exec_of_completed hadm rfl (by rw [busRecv, State.beginCommand_recvReply, hreply])]
    exact congrArg _ (answered s.data s.result _ _ _ _)
  · rw [exec_of_completed hadm rfl (by rw [busRecv, State.beginCommand_recvReply, hreply]), ← busError_byte_or ps]
    exact congrArg _ (answered s.data s.result _ _ _ _)

/-- Settles O22: each action's trigger, then the limit decides. -/
theorem primitiveNeverAnswered : Obligations.PrimitiveNeverAnswered := by
  unfold Obligations.PrimitiveNeverAnswered
  intro s hen status left
  have decided : ∀ {i : Instr} {action : State → Waited} {v : State},
      firstRefusal (commandChecks i s.beginCommand) = none → commandBody i = primitive action → v.cfg = s.cfg →
      action s.beginCommand
        = ({ v with answers := s.answers.tail, busCount := s.busCount + 1 }.hangingAt .s0 .t0).unanswered →
      exec i s = left v := by
    intro i action v hadm hbody hcfg h
    obtain ⟨hinf, hfinite⟩ := exec_of_unanswered hadm hbody h
    simp only [left, ← hcfg]
    cases hw : v.cfg.waitLimit with
    | inf => exact hinf hw
    | finite n => exact hfinite n hw
  refine ⟨fun i hi hreply => ?_, fun howned hreply => ?_, fun b howned hmay hreply => ?_, fun ack hphase hdir hreply => ?_⟩
  · have hbody : commandBody i = primitive busStart := by
      obtain rfl | rfl := hi
      all_goals rfl
    refine decided (admitted_of_enabled hen (by tauto)) hbody rfl ?_
    rw [busStart, State.beginCommand_startReply, hreply]
    rfl
  · refine decided (admitted_of_enabled hen (by simp)) rfl rfl ?_
    rw [busStop, State.beginCommand_owned, if_pos howned, State.beginCommand_stopReply, hreply]
    rfl
  · refine decided (wrb_admitted hen howned hmay) rfl rfl ?_
    rw [busSend, State.beginCommand_sendReply, hreply]
    rfl
  · refine decided (rdb_admitted hen hphase hdir) rfl rfl ?_
    rw [busRecv, State.beginCommand_recvReply, hreply]
    rfl

/-! ### What a command leaves alone -/

/-- The two states differ in nothing but a command's frame (R130). -/
def FrameOnly (s t : State) : Prop :=
  ∃ ok fail busy err sp tp, t = { s with ok := ok, fail := fail, busy := busy, err := err, spc := sp, tpc := tp }

theorem FrameOnly.of_begin (s : State) : FrameOnly s s.beginCommand := ⟨_, _, _, _, _, _, rfl⟩

theorem FrameOnly.of_succeed (s : State) : FrameOnly s s.succeed := ⟨true, s.fail, false, s.err, s.spc, s.tpc, rfl⟩

theorem FrameOnly.of_failWith (s : State) (e : ErrInfo) : FrameOnly s (s.failWith e) := ⟨s.ok, _, _, _, _, _, rfl⟩

theorem FrameOnly.of_refuse (s : State) (k : ErrKind) : FrameOnly s (s.beginCommand.refuse k) := ⟨_, _, _, _, _, _, rfl⟩

theorem FrameOnly.refl (s : State) : FrameOnly s s := ⟨s.ok, s.fail, s.busy, s.err, s.spc, s.tpc, rfl⟩

/-- A relation of the state before and after that does not look at a command's frame. -/
def FrameBlind (Q : State → State → Prop) : Prop :=
  ∀ s s' t t', FrameOnly s s' → FrameOnly t t' → Q s' t → Q s t'

theorem FrameBlind.and {P Q : State → State → Prop} (hP : FrameBlind P) (hQ : FrameBlind Q) :
    FrameBlind fun s t => P s t ∧ Q s t :=
  fun s s' t t' hs ht h => ⟨hP s s' t t' hs ht h.1, hQ s s' t t' hs ht h.2⟩

theorem FrameBlind.sameSensor : FrameBlind SameSensor := by
  rintro s _ t _ ⟨_, _, _, _, _, _, rfl⟩ ⟨_, _, _, _, _, _, rfl⟩ h
  exact { h with }

theorem FrameBlind.sameHeld : FrameBlind SameHeld := by
  rintro s _ t _ ⟨_, _, _, _, _, _, rfl⟩ ⟨_, _, _, _, _, _, rfl⟩ h
  exact { h with }

theorem FrameBlind.sameBuffer : FrameBlind SameBuffer := by
  rintro s _ t _ ⟨_, _, _, _, _, _, rfl⟩ ⟨_, _, _, _, _, _, rfl⟩ h
  exact { h with }

theorem FrameBlind.sameBus : FrameBlind SameBus := by
  rintro s _ t _ ⟨_, _, _, _, _, _, rfl⟩ ⟨_, _, _, _, _, _, rfl⟩ h
  exact { h with }

theorem FrameBlind.sameEntriesFrom (n : Nat) : FrameBlind (SameEntriesFrom n) := by
  rintro s _ t _ ⟨_, _, _, _, _, _, rfl⟩ ⟨_, _, _, _, _, _, rfl⟩ h
  exact h

theorem FrameBlind.keptBytes (result data : Bool) : FrameBlind (KeptBytes result data) := by
  rintro s _ t _ ⟨_, _, _, _, _, _, rfl⟩ ⟨_, _, _, _, _, _, rfl⟩ h
  exact h

/-- The rule of frames: what the body keeps whatever happens, the command keeps, and the held registers too. -/
theorem exec_frame {Q : State → State → Prop} (hQ : FrameBlind Q) (hrefl : ∀ s, Q s s) {i : Instr} {s t : State}
    {D : State → Prop} (h : exec i s = .next t)
    (hbody : firstRefusal (commandChecks i s.beginCommand) = none →
      StepEnds s.beginCommand (Q s.beginCommand) D (commandBody i s.beginCommand)) : SameHeld s t ∧ Q s t := by
  have hboth : FrameBlind fun s t => SameHeld s t ∧ Q s t := FrameBlind.sameHeld.and hQ
  have hbegin := FrameOnly.of_begin s
  refine exec_ends (P := fun t => SameHeld s t ∧ Q s t) h
    (fun k _ => hboth s s s _ (.refl s) (.of_refuse s k) ⟨.refl s, hrefl s⟩) fun hadm => ?_
  refine (hbody hadm).mono ?_ ?_ ?_
  · rintro u ⟨hwork, -, -, hkept, -⟩
    exact hboth s _ u _ hbegin (.of_succeed u) ⟨hwork.held, hkept⟩
  · rintro _ ⟨u, e, hwork, hkept, -, rfl⟩
    exact hboth s _ u _ hbegin (.of_failWith u e) ⟨hwork.held, hkept⟩
  · rintro u ⟨hwork, hkept, -⟩
    exact hboth s _ u _ hbegin (.refl u) ⟨hwork.held, hkept⟩

/-- The frame of a primitive with a bus action. -/
theorem exec_primitive_frame {result data : Bool} {i : Instr} {action : State → Waited}
    (hbody : commandBody i = primitive action)
    (ha : ∀ s, ActionEnds result data s (action s)) {s t : State} (h : exec i s = .next t) :
    SameHeld s t ∧ SameSensor s t ∧ SameBuffer s t ∧ KeptBytes result data s t :=
  exec_frame (FrameBlind.sameSensor.and (FrameBlind.sameBuffer.and (.keptBytes result data)))
    (fun s => ⟨.refl s, .refl s, fun _ => rfl, fun _ => rfl⟩) h fun _ => hbody ▸ primitive_ends (ha _)

theorem SameBus.refl (s : State) : SameBus s s := by constructor <;> rfl

/-- STAT writes RESULT alone (R138). -/
theorem exec_stat_frame {s t : State} (h : exec .stat s = .next t) :
    SameHeld s t ∧ SameSensor s t ∧ SameBuffer s t ∧ SameBus s t := by
  refine exec_frame (D := fun _ => True) (FrameBlind.sameSensor.and (FrameBlind.sameBuffer.and .sameBus))
    (fun s => ⟨.refl s, .refl s, .refl s⟩) h fun _ => ?_
  have hsensor : SameSensor s.beginCommand { s.beginCommand with result := s.beginCommand.code } := by
    constructor <;> rfl
  exact .of_done (.of_sensor (by constructor <;> rfl) (by constructor <;> rfl) (by constructor <;> rfl) rfl rfl rfl id) rfl rfl
    ⟨hsensor, by constructor <;> rfl, by constructor <;> rfl⟩ trivial

/-- A start and a stop leave RESULT and DATA. -/
theorem exec_condition_frame {i : Instr} (hi : i = .start ∨ i = .rstart ∨ i = .stop) {s t : State} (h : exec i s = .next t) :
    SameHeld s t ∧ SameSensor s t ∧ SameBuffer s t ∧ KeptBytes true true s t := by
  obtain rfl | rfl | rfl := hi
  · exact exec_primitive_frame rfl busStart_actionEnds h
  · exact exec_primitive_frame rfl busStart_actionEnds h
  · exact exec_primitive_frame rfl busStop_actionEnds h

/-- Settles O23: INIT and STAT by what they write, the others by what their bus action keeps. -/
theorem primitiveFrame : Obligations.PrimitiveFrame := by
  unfold Obligations.PrimitiveFrame
  intro i s t hi h
  have hcases : i = .init ∨ (i = .start ∨ i = .rstart ∨ i = .stop) ∨ (∃ b, i = .wrb b) ∨ (∃ a, i = .rdb a) ∨ i = .stat := by
    tauto
  obtain rfl | hcondition | ⟨b, rfl⟩ | ⟨a, rfl⟩ | rfl := hcases
  · cases (exec_init s).symm.trans h
    exact ⟨by constructor <;> rfl, by constructor <;> rfl, by constructor <;> rfl, by simp, fun _ _ => rfl, fun _ _ => rfl,
      by simp, fun _ => ⟨rfl, rfl, rfl, rfl, rfl, withPrescale_and_mask _ _⟩⟩
  · obtain ⟨hheld, hsensor, hbuffer, hresult, hdata⟩ := exec_condition_frame hcondition h
    refine ⟨hsensor, hbuffer, { hheld with bitrate := rfl }, fun _ => hheld.bitrate, fun _ _ => hresult rfl,
      fun _ _ => hdata rfl, ?_, ?_⟩
    all_goals
      rintro rfl
      simp at hcondition
  · obtain ⟨hheld, hsensor, hbuffer, hresult, -⟩ := exec_primitive_frame rfl (busSend_actionEnds b) h
    exact ⟨hsensor, hbuffer, { hheld with bitrate := rfl }, fun _ => hheld.bitrate, fun _ _ => hresult rfl,
      fun hno => absurd rfl (hno b), nofun, nofun⟩
  · obtain ⟨hheld, hsensor, hbuffer, -⟩ := exec_primitive_frame rfl (busRecv_actionEnds a) h
    exact ⟨hsensor, hbuffer, { hheld with bitrate := rfl }, fun _ => hheld.bitrate, fun _ hno => absurd rfl (hno a),
      fun _ hno => absurd rfl (hno a), nofun, nofun⟩
  · obtain ⟨hheld, hsensor, hbuffer, hbus⟩ := exec_stat_frame h
    exact ⟨hsensor, hbuffer, { hheld with bitrate := rfl }, fun _ => hheld.bitrate, by simp, fun _ _ => hbus.data,
      fun _ => hbus, nofun⟩

/-! ### Compensation commands (spec/43_compensation.md R215, R219, R220) -/

section
variable {s : State} (hen : s.en = true) (hcal : s.calValid = true)
include hen hcal

theorem cmpt_admitted (hraw : s.rawTValid = true) : firstRefusal (commandChecks .cmpt s.beginCommand) = none := by
  simp [commandChecks, State.needsEnable, State.needsCalibration, hen, hcal, hraw]

theorem cmpp_admitted (hraw : s.rawPValid = true) (hfine : s.tFineValid = true) :
    firstRefusal (commandChecks .cmpp s.beginCommand) = none := by
  simp [commandChecks, State.needsEnable, State.needsCalibration, hen, hcal, hraw, hfine]

end

/-- Settles O44. -/
theorem cmptResult : Obligations.CmptResult := by
  unfold Obligations.CmptResult
  intro s hen hcal hraw
  rw [exec_of_admitted (cmpt_admitted hen hcal hraw)]
  rfl

/-- Settles O45. -/
theorem cmppResult : Obligations.CmppResult := by
  unfold Obligations.CmppResult
  intro s hen hcal hraw hfine
  rw [exec_of_admitted (cmpp_admitted hen hcal hraw hfine)]
  rfl

/-- CMPT leaves everything but its three registers (R220). -/
def CmptFrame (s t : State) : Prop :=
  SameBus s t ∧ SameBuffer s t ∧ t.result = s.result
    ∧ SameSensor { s with temp := t.temp, tFine := t.tFine, tFineValid := t.tFineValid } t

/-- CMPP leaves everything but its two registers (R220). -/
def CmppFrame (s t : State) : Prop :=
  SameBus s t ∧ SameBuffer s t ∧ t.result = s.result ∧ SameSensor { s with press := t.press, divg := t.divg } t

theorem FrameBlind.cmptFrame : FrameBlind CmptFrame := by
  rintro s _ t _ ⟨_, _, _, _, _, _, rfl⟩ ⟨_, _, _, _, _, _, rfl⟩ ⟨hbus, hbuffer, hresult, hsensor⟩
  exact ⟨{ hbus with }, { hbuffer with }, hresult, { hsensor with }⟩

theorem FrameBlind.cmppFrame : FrameBlind CmppFrame := by
  rintro s _ t _ ⟨_, _, _, _, _, _, rfl⟩ ⟨_, _, _, _, _, _, rfl⟩ ⟨hbus, hbuffer, hresult, hsensor⟩
  exact ⟨{ hbus with }, { hbuffer with }, hresult, { hsensor with }⟩

theorem exec_cmpt_frame {s t : State} (h : exec .cmpt s = .next t) : SameHeld s t ∧ CmptFrame s t := by
  refine exec_frame (D := fun _ => True) .cmptFrame (fun s => ⟨.refl s, .refl s, rfl, .refl s⟩) h fun _ => ?_
  exact .of_done (.of_sensor (by constructor <;> rfl) (by constructor <;> rfl) (by constructor <;> rfl) rfl rfl rfl id) rfl rfl
    ⟨by constructor <;> rfl, by constructor <;> rfl, rfl, by constructor <;> rfl⟩ trivial

theorem exec_cmpp_frame {s t : State} (h : exec .cmpp s = .next t) : SameHeld s t ∧ CmppFrame s t := by
  refine exec_frame (D := fun _ => True) .cmppFrame (fun s => ⟨.refl s, .refl s, rfl, .refl s⟩) h fun _ => ?_
  exact .of_done (.of_sensor (by constructor <;> rfl) (by constructor <;> rfl) (by constructor <;> rfl) rfl rfl rfl id) rfl rfl
    ⟨by constructor <;> rfl, by constructor <;> rfl, rfl, by constructor <;> rfl⟩ trivial

/-- Settles O46. -/
theorem compensationFrame : Obligations.CompensationFrame := by
  unfold Obligations.CompensationFrame
  intro s t
  constructor
  · intro h
    obtain ⟨hheld, hbus, hbuffer, hresult, hsensor⟩ := exec_cmpt_frame h
    exact ⟨hbus, hbuffer, hheld, hresult, hsensor⟩
  · intro h
    obtain ⟨hheld, hbus, hbuffer, hresult, hsensor⟩ := exec_cmpp_frame h
    exact ⟨hbus, hbuffer, hheld, hresult, hsensor⟩

end Sys2Proof.Machine
end

section
/-! SUPPORT. Bytes stored in RXBUF (spec/10_state.md R28) and the commands against an environment that acknowledges everything
(spec/41_bus_transactions.md R162 to R164, spec/42_sensor_access.md R190 to R194). -/

namespace Sys2Proof.Machine

open Sys2Proof.Config

/-! ### The buffer -/

theorem storeBytes_wf : ∀ {m : Memory} {n : Nat} {bytes : List Byte}, m.wf = true → n + bytes.length ≤ 255 →
    (storeBytes m n bytes).wf = true
  | _, _, [], hm, _ => hm
  | m, n, b :: rest, hm, hfit => by
    rw [List.length_cons] at hfit
    rw [storeBytes]
    exact storeBytes_wf (Memory.wf_write hm b (show n < 255 by omega)) (by omega)

theorem read_storeBytes_other : ∀ {m : Memory} {n : Nat} {bytes : List Byte} {a : Nat}, (a < n ∨ n + bytes.length ≤ a) →
    (storeBytes m n bytes).read a = m.read a
  | _, _, [], _, _ => rfl
  | m, n, b :: rest, a, ha => by
    rw [List.length_cons] at ha
    rw [storeBytes, read_storeBytes_other (by omega), Memory.read_write_other m b (by omega)]

theorem read_storeBytes : ∀ {m : Memory} {n : Nat} {bytes : List Byte}, m.wf = true → n + bytes.length ≤ 255 →
    ∀ k, k < bytes.length → (storeBytes m n bytes).read (n + k) = bytes.getD k 0
  | m, n, b :: rest, hm, _, 0, _ => by
    rw [storeBytes, read_storeBytes_other (.inl (by omega)), Nat.add_zero, Memory.read_write_same hm]
    rfl
  | m, n, b :: rest, hm, hfit, k + 1, hk => by
    rw [List.length_cons] at hfit hk
    have ih := read_storeBytes (Memory.wf_write hm b (show n < 255 by omega)) (n := n + 1) (bytes := rest) (by omega) k
      (by omega)
    rw [storeBytes, show n + (k + 1) = n + 1 + k by omega, ih]
    rfl

/-- Settles O26: a byte is written at its own entry, and the later bytes go to later entries. -/
theorem storedBytesAreReadBack : Obligations.StoredBytesAreReadBack := by
  unfold Obligations.StoredBytesAreReadBack
  exact fun m n bytes hm hfit =>
    ⟨storeBytes_wf hm hfit, read_storeBytes hm hfit, fun a => read_storeBytes_other⟩

/-- The coefficients depend on the first 24 entries alone (R191). -/
theorem Calib.ofBytes_congr {f g : Nat → Byte} (h : ∀ k, k < 24 → f k = g k) : Calib.ofBytes f = Calib.ofBytes g := by
  simp [Calib.ofBytes, h]

/-! ### Transactions that complete -/

theorem enabled_admitted {i : Instr} {s : State} (hen : s.en = true) (hi : (∃ dev reg v, i = .wreg dev reg v)
    ∨ (∃ dev reg, i = .rreg dev reg) ∨ (∃ dev reg c, i = .rburst dev reg c ∧ c ≠ 0#8) ∨ (∃ dev, i = .ldcal dev)
    ∨ (∃ dev, i = .reqm dev) ∨ (∃ dev, i = .sinit dev)
    ∨ (s.measOk = true ∧ ((∃ dev, i = .rdrt dev) ∨ ∃ dev, i = .rdrp dev)) ∨ (s.calValid = true ∧ ∃ dev, i = .sread dev)) :
    firstRefusal (commandChecks i s.beginCommand) = none := by
  obtain ⟨_, _, _, rfl⟩ | ⟨_, _, rfl⟩ | ⟨_, _, _, rfl, hc⟩ | ⟨_, rfl⟩ | ⟨_, rfl⟩ | ⟨_, rfl⟩ | ⟨hm, ⟨_, rfl⟩ | ⟨_, rfl⟩⟩
    | ⟨hcal, _, rfl⟩ := hi
  all_goals simp_all [commandChecks, State.needsEnable, State.needsCalibration]

/-- Settles O24. -/
theorem wregCompletes : Obligations.WregCompletes := by
  unfold Obligations.WregCompletes
  intro dev reg value s rest hen howned hanswers
  rw [exec_of_admitted (enabled_admitted hen (by simp)), commandBody,
    memWrite_acked dev reg value (s := s.beginCommand) howned hanswers]
  rfl

/-- Settles O25: both commands are the read transaction of `count` bytes. -/
theorem readsComplete : Obligations.ReadsComplete := by
  unfold Obligations.ReadsComplete
  intro dev reg count bytes i s rest hen howned hlen hcount hi hanswers
  have hread := fun kind => memRead_acked kind dev reg count bytes (s := s.beginCommand) howned hlen hcount hanswers
  obtain rfl | ⟨rfl, rfl⟩ := hi
  · rw [exec_of_admitted (enabled_admitted hen (by simp [hcount])), commandBody, hread]
    rfl
  · rw [exec_of_admitted (enabled_admitted hen (by simp)), commandBody, hread]
    rfl

section
variable {dev : DevAddr} {s : State} {rest : List Reply} (howned : s.owned = false)
include howned

/-- A complete trigger write opens a cycle (R192). -/
theorem reqmStep_acked (hanswers : s.answers = ackedWrite ++ rest) :
    reqmStep dev s = .done { s with
      measOk := true, rawTValid := false, rawPValid := false, tFineValid := false
      tpc := .t0, ctrl := 0x04#8, status := withCode .noInfo s.status, data := 0x25#8, phase := .stopped, dir := .w
      hist := s.hist ++ writeEvents dev 0xF4 0x25, answers := rest, busCount := s.busCount + 5 } := by
  rw [reqmStep, memWrite_acked dev measReg measVal
    (s := { s with measOk := false, rawTValid := false, rawPValid := false, tFineValid := false }) howned hanswers]
  rfl

/-- A complete calibration read (R190). -/
theorem ldcalStep_acked {bytes : List Byte} (hwf : s.rxbuf.wf = true) (hlen : bytes.length = 24)
    (hanswers : s.answers = ackedRead bytes ++ rest) :
    ldcalStep dev s = .done { s with
      cal := Calib.ofBytes (fun k => bytes.getD k 0), calValid := true
      tpc := .t0, ctrl := 0x04#8, status := withCode .noInfo s.status, data := bytes.getLastD 0
      result := bytes.getLastD 0, phase := .stopped, dir := .w, rxbuf := storeBytes s.rxbuf 0 bytes, rxLen := 24#8
      idx := 24#8, hist := s.hist ++ readEvents dev 0x88 bytes, answers := rest
      busCount := s.busCount + 6 + bytes.length } := by
  have hcal : Calib.ofBytes (storeBytes s.rxbuf 0 bytes).read = Calib.ofBytes fun k => bytes.getD k 0 :=
    Calib.ofBytes_congr fun k hk => by
      simpa using read_storeBytes hwf (n := 0) (bytes := bytes) (by omega) k (by omega)
  rw [ldcalStep, memRead_acked _ dev calReg calLen bytes howned hlen (by decide) hanswers, ← hcal]
  rfl

section
variable {b0 b1 b2 : Byte} (hwf : s.rxbuf.wf = true) (hanswers : s.answers = ackedRead [b0, b1, b2] ++ rest)
include hwf hanswers

omit howned hanswers in
/-- The raw code of the three bytes a read has stored (R195). -/
theorem raw20_storeBytes :
    raw20 ((storeBytes s.rxbuf 0 [b0, b1, b2]).read 0) ((storeBytes s.rxbuf 0 [b0, b1, b2]).read 1)
      ((storeBytes s.rxbuf 0 [b0, b1, b2]).read 2) = raw20 b0 b1 b2 := by
  have hread := read_storeBytes hwf (n := 0) (bytes := [b0, b1, b2]) (by simp)
  have h0 := hread 0 (by simp)
  have h1 := hread 1 (by simp)
  have h2 := hread 2 (by simp)
  simp only [Nat.zero_add] at h0 h1 h2
  rw [h0, h1, h2]
  rfl

/-- A complete read of a raw temperature (R193). -/
theorem rdrtStep_acked :
    rdrtStep dev s = .done { s with
      rawT := raw20 b0 b1 b2, rawTValid := true
      tpc := .t0, ctrl := 0x04#8, status := withCode .noInfo s.status, data := b2, result := b2, phase := .stopped
      dir := .w, rxbuf := storeBytes s.rxbuf 0 [b0, b1, b2], rxLen := 3#8, idx := 3#8
      hist := s.hist ++ readEvents dev 0xFA [b0, b1, b2], answers := rest, busCount := s.busCount + 9 } := by
  rw [rdrtStep, memRead_acked _ dev tempReg rawLen [b0, b1, b2] (s := { s with rawTValid := false }) howned rfl (by decide)
    hanswers, ← raw20_storeBytes hwf]
  rfl

/-- A complete read of a raw pressure (R194). -/
theorem rdrpStep_acked :
    rdrpStep dev s = .done { s with
      rawP := raw20 b0 b1 b2, rawPValid := true
      tpc := .t0, ctrl := 0x04#8, status := withCode .noInfo s.status, data := b2, result := b2, phase := .stopped
      dir := .w, rxbuf := storeBytes s.rxbuf 0 [b0, b1, b2], rxLen := 3#8, idx := 3#8
      hist := s.hist ++ readEvents dev 0xF7 [b0, b1, b2], answers := rest, busCount := s.busCount + 9 } := by
  rw [rdrpStep, memRead_acked _ dev pressReg rawLen [b0, b1, b2] (s := { s with rawPValid := false }) howned rfl (by decide)
    hanswers, ← raw20_storeBytes hwf]
  rfl

end

end

/-- Settles O37. -/
theorem reqmCompletes : Obligations.ReqmCompletes := by
  unfold Obligations.ReqmCompletes
  intro dev s rest hen howned hanswers
  rw [exec_of_admitted (enabled_admitted hen (by simp)), commandBody,
    reqmStep_acked (s := s.beginCommand) howned hanswers]
  rfl

/-- Settles O35. -/
theorem ldcalCompletes : Obligations.LdcalCompletes := by
  unfold Obligations.LdcalCompletes
  intro dev bytes s rest hen howned hwf hlen hanswers
  rw [exec_of_admitted (enabled_admitted hen (by simp)), commandBody,
    ldcalStep_acked (s := s.beginCommand) howned hwf hlen hanswers]
  exact ⟨_, rfl, rfl, rfl, rfl, rfl, rfl, rfl, rfl, rfl, rfl⟩

/-- Settles O38. -/
theorem rawReadsComplete : Obligations.RawReadsComplete := by
  unfold Obligations.RawReadsComplete
  intro dev b0 b1 b2 s rest hen howned hmeas hwf hanswers read
  constructor
  · rw [exec_of_admitted (enabled_admitted hen (by simp [hmeas])), commandBody,
      rdrtStep_acked (s := s.beginCommand) howned hwf hanswers]
    rfl
  · rw [exec_of_admitted (enabled_admitted hen (by simp [hmeas])), commandBody,
      rdrpStep_acked (s := s.beginCommand) howned hwf hanswers]
    rfl

end Sys2Proof.Machine
end

section
/-! SUPPORT. What a command that does not succeed leaves, and the frames of the bus commands (spec/41_bus_transactions.md R162 to
R165, spec/42_sensor_access.md R190 to R194, spec/44_measurement_cycles.md R251 to R255). -/

namespace Sys2Proof.Machine

open Sys2Proof.Config

/-- `StepEnds` with any property `D` of a state in which the part is done. -/
def BodyEnds (s : State) (I D : State → Prop) (r : Run) : Prop :=
  r.Ends D
    (fun t => ∃ u e, BodyWork s u ∧ I u ∧ ErrInfo.FitsLimit e s.cfg.waitLimit ∧ t = u.failWith e)
    (fun t => BodyWork s t ∧ I t ∧ s.cfg.waitLimit = .inf
      ∧ (t.err = s.err ∨ ∃ e, ErrInfo.FitsLimit e s.cfg.waitLimit ∧ t.err = e.word))

theorem BodyEnds.step {s : State} {I J D : State → Prop} {r : Run} (h : BodyEnds s I D r) (hI : ∀ t, I t → J t)
    (hD : ∀ t, D t → BodyWork s t ∧ t.err = s.err ∧ t.tpc = s.tpc ∧ J t) : StepEnds s J (fun _ => True) r := by
  refine Run.Ends.mono h ?_ ?_ ?_
  · intro t hd
    obtain ⟨hwork, herr, htpc, hJ⟩ := hD t hd
    exact ⟨hwork, herr, htpc, hJ, trivial⟩
  · rintro t ⟨u, e, hwork, hi, hfail⟩
    exact ⟨u, e, hwork, hI u hi, hfail⟩
  · rintro t ⟨hwork, hi, hhang⟩
    exact ⟨hwork, hI t hi, hhang⟩

/-- A read transaction keeps RX_LEN 0 until it is done (R28). -/
theorem memRead_body {kind : ErrKind} (hk : kind ≠ .none) (hk' : kind ≠ .busTimeout) (dev : DevAddr) (reg : Byte) {count : Byte}
    (hcount : count ≠ 0#8) (s : State) :
    BodyEnds s (fun t => t.rxLen = 0#8) (fun _ => True) (memRead kind dev reg count s) := by
  refine Run.Ends.mono (memRead_ends hk hk' dev reg count hcount s) (fun _ _ => trivial) ?_ ?_
  · rintro t ⟨u, e, hwork, hreading, hfail⟩
    exact ⟨u, e, hwork.body, hreading.1, hfail⟩
  · rintro t ⟨hwork, hreading, hhang⟩
    exact ⟨hwork.body, hreading.1, hhang⟩

section
variable {i : Instr} {s t : State} {I D : State → Prop} (h : exec i s = .next t)
include h

/-- A command has succeeded when its body is done, and otherwise OK is 0 and what the body keeps whatever happens holds but
for the frame (R130, R275). -/
theorem exec_ok_cases (hrefused : ∀ k, firstRefusal (commandChecks i s.beginCommand) = some k → I s.beginCommand)
    (hbody : firstRefusal (commandChecks i s.beginCommand) = none →
      BodyEnds s.beginCommand I D (commandBody i s.beginCommand)) :
    (t.ok = true ∧ ∃ u, D u ∧ FrameOnly u t) ∨ (t.ok = false ∧ ∃ u, I u ∧ FrameOnly u t) := by
  refine exec_ends
    (P := fun t => (t.ok = true ∧ ∃ u, D u ∧ FrameOnly u t) ∨ (t.ok = false ∧ ∃ u, I u ∧ FrameOnly u t)) h
    (fun k hk => .inr ⟨rfl, _, hrefused k hk, .of_failWith _ _⟩) fun hadm => ?_
  refine (hbody hadm).mono ?_ ?_ ?_
  · exact fun u hd => .inl ⟨rfl, u, hd, .of_succeed u⟩
  · rintro _ ⟨u, e, hwork, hi, -, rfl⟩
    exact .inr ⟨hwork.ok, u, hi, .of_failWith u e⟩
  · rintro u ⟨hwork, hi, -⟩
    exact .inr ⟨hwork.ok, u, hi, .refl u⟩

theorem exec_ok_cases_admitted (hadm : firstRefusal (commandChecks i s.beginCommand) = none)
    (hbody : BodyEnds s.beginCommand I D (commandBody i s.beginCommand)) :
    (t.ok = true ∧ ∃ u, D u ∧ FrameOnly u t) ∨ (t.ok = false ∧ ∃ u, I u ∧ FrameOnly u t) :=
  exec_ok_cases h (fun k hk => by simp [hadm] at hk) fun _ => hbody

theorem exec_not_ok (hadm : firstRefusal (commandChecks i s.beginCommand) = none) (hok : t.ok = false)
    (hbody : BodyEnds s.beginCommand I D (commandBody i s.beginCommand)) : ∃ u, I u ∧ FrameOnly u t := by
  obtain ⟨htrue, -⟩ | ⟨-, hkept⟩ := exec_ok_cases_admitted h hadm hbody
  · simp [hok] at htrue
  · exact hkept

end

/-- Settles O31: RX_LEN is 0 from the first step of a read to its end. -/
theorem failedReadMarksBufferInvalid : Obligations.FailedReadMarksBufferInvalid := by
  unfold Obligations.FailedReadMarksBufferInvalid
  intro i s t hen hi h hok
  obtain ⟨dev, reg, rfl⟩ | ⟨dev, reg, c, rfl, hc⟩ | ⟨dev, rfl⟩ | ⟨hm, ⟨dev, rfl⟩ | ⟨dev, rfl⟩⟩ := hi
  · obtain ⟨u, hlen, _, _, _, _, _, _, rfl⟩ := exec_not_ok h (enabled_admitted hen (by simp)) hok
      (memRead_body (by decide) (by decide) dev reg (by decide) s.beginCommand)
    exact hlen
  · obtain ⟨u, hlen, _, _, _, _, _, _, rfl⟩ := exec_not_ok h (enabled_admitted hen (by simp [hc])) hok
      (memRead_body (by decide) (by decide) dev reg hc s.beginCommand)
    exact hlen
  · obtain ⟨u, ⟨-, -, hlen⟩, _, _, _, _, _, _, rfl⟩ := exec_not_ok h (enabled_admitted hen (by simp)) hok
      (ldcalStep_ends dev s.beginCommand)
    exact hlen
  · obtain ⟨u, ⟨-, hlen, -⟩, _, _, _, _, _, _, rfl⟩ := exec_not_ok h (enabled_admitted hen (by simp [hm])) hok
      (rdrtStep_ends dev s.beginCommand)
    exact hlen
  · obtain ⟨u, ⟨-, hlen, -⟩, _, _, _, _, _, _, rfl⟩ := exec_not_ok h (enabled_admitted hen (by simp [hm])) hok
      (rdrpStep_ends dev s.beginCommand)
    exact hlen

/-- Settles O36: each step of the sensor engine writes its registers at its end, or clears its flag at its beginning. -/
theorem sensorAccessFailures : Obligations.SensorAccessFailures := by
  unfold Obligations.SensorAccessFailures
  intro dev s t hen
  refine ⟨fun h => ?_, fun h hok => ?_, fun hm h hok => ?_, fun hm h hok => ?_⟩
  · obtain ⟨hok, u, hdone, _, _, _, _, _, _, rfl⟩ | ⟨hok, u, hkept, _, _, _, _, _, _, rfl⟩ :=
      exec_ok_cases_admitted h (enabled_admitted hen (by simp)) (ldcalStep_ends dev s.beginCommand)
    · obtain ⟨-, -, -, -, -, -, -, hvalid, hcal, -⟩ := hdone
      exact .inl ⟨hok, hvalid, hcal⟩
    · exact .inr ⟨hok, hkept.1.calValid, hkept.1.cal⟩
  · obtain ⟨u, ⟨-, -, hs⟩, _, _, _, _, _, _, rfl⟩ :=
      exec_not_ok h (enabled_admitted hen (by simp)) hok (reqmStep_ends dev (s := s.beginCommand) rfl)
    exact ⟨hs.measOk, hs.rawTValid, hs.rawPValid, hs.tFineValid⟩
  · obtain ⟨u, ⟨-, -, hs⟩, _, _, _, _, _, _, rfl⟩ :=
      exec_not_ok h (enabled_admitted hen (by simp [hm])) hok (rdrtStep_ends dev s.beginCommand)
    exact ⟨hs.rawTValid, hs.rawT⟩
  · obtain ⟨u, ⟨-, -, hs⟩, _, _, _, _, _, _, rfl⟩ :=
      exec_not_ok h (enabled_admitted hen (by simp [hm])) hok (rdrpStep_ends dev s.beginCommand)
    exact ⟨hs.rawPValid, hs.rawP⟩

/-- Settles O50: the commit is the last step of both commands. -/
theorem readingAllOrNothing : Obligations.ReadingAllOrNothing := by
  unfold Obligations.ReadingAllOrNothing
  intro dev s t
  constructor
  · intro h
    obtain ⟨hok, u, hdone, _, _, _, _, _, _, rfl⟩ | ⟨hok, u, hkept, _, _, _, _, _, _, rfl⟩ :=
      exec_ok_cases h (fun _ _ => CycleWork.refl s.beginCommand) fun hadm => sreadBody_ends dev rfl
        (firstRefusal_eq_none.mp hadm s.beginCommand.needsCalibration (by simp [commandChecks]))
    · obtain ⟨-, -, -, -, hrdT, hrdP, -⟩ := hdone
      exact .inl ⟨hok, hrdT, hrdP⟩
    · exact .inr ⟨hok, hkept.rdT, hkept.rdP⟩
  · intro h
    obtain ⟨hok, u, hdone, _, _, _, _, _, _, rfl⟩ | ⟨hok, u, hkept, _, _, _, _, _, _, rfl⟩ :=
      exec_ok_cases h (fun _ _ => WarmupWork.refl s.beginCommand) fun _ => sinitBody_ends dev rfl
    · obtain ⟨-, -, -, -, hrdT, hrdP, hvalid, hcyc, -⟩ := hdone
      exact .inl ⟨hok, hcyc, hvalid, hrdT, hrdP⟩
    · exact .inr ⟨hok, hkept.rdT, hkept.rdP⟩

/-! ### Frames -/

/-- The frame of a write transaction (R162): the buffer and RESULT too. -/
def WriteFrame (s t : State) : Prop := SameSensor s t ∧ SameBuffer s t ∧ t.result = s.result

/-- The frame of REQM (R192): of the sensor registers it writes the four cycle flags. -/
def ReqmFrame (s t : State) : Prop :=
  SameBuffer s t ∧ t.result = s.result
    ∧ SameSensor { s with
      measOk := t.measOk, rawTValid := t.rawTValid, rawPValid := t.rawPValid, tFineValid := t.tFineValid } t

def LdcalFrame (s t : State) : Prop :=
  SameEntriesFrom 24 s t ∧ SameSensor { s with cal := t.cal, calValid := t.calValid } t

def RdrtFrame (s t : State) : Prop :=
  SameEntriesFrom 3 s t ∧ SameSensor { s with rawT := t.rawT, rawTValid := t.rawTValid } t

def RdrpFrame (s t : State) : Prop :=
  SameEntriesFrom 3 s t ∧ SameSensor { s with rawP := t.rawP, rawPValid := t.rawPValid } t

/-- The frame of SREAD (R252): of the Reading, the calibration and the accumulators it writes the Reading. -/
def SreadFrame (s t : State) : Prop := CycleWork { s with rdT := t.rdT, rdP := t.rdP } t

theorem FrameBlind.writeFrame : FrameBlind WriteFrame :=
  FrameBlind.sameSensor.and (FrameBlind.sameBuffer.and (by
    rintro s _ t _ ⟨_, _, _, _, _, _, rfl⟩ ⟨_, _, _, _, _, _, rfl⟩ h
    exact h))

theorem FrameBlind.reqmFrame : FrameBlind ReqmFrame := by
  rintro s _ t _ ⟨_, _, _, _, _, _, rfl⟩ ⟨_, _, _, _, _, _, rfl⟩ ⟨hbuffer, hresult, hsensor⟩
  exact ⟨{ hbuffer with }, hresult, { hsensor with }⟩

theorem FrameBlind.ldcalFrame : FrameBlind LdcalFrame := by
  rintro s _ t _ ⟨_, _, _, _, _, _, rfl⟩ ⟨_, _, _, _, _, _, rfl⟩ ⟨hentries, hsensor⟩
  exact ⟨hentries, { hsensor with }⟩

theorem FrameBlind.rdrtFrame : FrameBlind RdrtFrame := by
  rintro s _ t _ ⟨_, _, _, _, _, _, rfl⟩ ⟨_, _, _, _, _, _, rfl⟩ ⟨hentries, hsensor⟩
  exact ⟨hentries, { hsensor with }⟩

theorem FrameBlind.rdrpFrame : FrameBlind RdrpFrame := by
  rintro s _ t _ ⟨_, _, _, _, _, _, rfl⟩ ⟨_, _, _, _, _, _, rfl⟩ ⟨hentries, hsensor⟩
  exact ⟨hentries, { hsensor with }⟩

theorem FrameBlind.sreadFrame : FrameBlind SreadFrame := by
  rintro s _ t _ ⟨_, _, _, _, _, _, rfl⟩ ⟨_, _, _, _, _, _, rfl⟩ h
  exact { h with }

theorem exec_wreg_frame {dev : DevAddr} {reg v : Byte} {s t : State} (h : exec (.wreg dev reg v) s = .next t) :
    SameHeld s t ∧ WriteFrame s t :=
  exec_frame .writeFrame (fun s => ⟨.refl s, .refl s, rfl⟩) h fun _ =>
    (memWrite_step dev reg v (s := s.beginCommand) rfl).weaken (fun _ ⟨hsensor, _, hbuffer, hresult⟩ =>
      ⟨hsensor, hbuffer, hresult⟩) fun _ _ => id

/-- The frame of a read transaction as a command. -/
theorem exec_read_frame {i : Instr} {dev : DevAddr} {reg count : Byte}
    (hbody : commandBody i = memRead .protocolStatusMismatch dev reg count) {s t : State} (h : exec i s = .next t)
    (hcount : firstRefusal (commandChecks i s.beginCommand) = none → count ≠ 0#8) :
    SameHeld s t ∧ SameSensor s t ∧ SameEntriesFrom count.toNat s t := by
  refine exec_frame (D := fun t => t.spc = .s0) (FrameBlind.sameSensor.and (.sameEntriesFrom count.toNat))
    (fun s => ⟨.refl s, fun _ _ => rfl⟩) h fun hadm => ?_
  rw [hbody]
  exact (memRead_step dev reg (hcount hadm) (s := s.beginCommand) rfl).weaken (fun _ ⟨hsensor, hentries, _⟩ =>
    ⟨hsensor, hentries⟩) fun _ _ => id

/-- Settles O32. -/
theorem transactionFrame : Obligations.TransactionFrame := by
  unfold Obligations.TransactionFrame
  intro dev reg v s t
  refine ⟨fun h => ?_, fun h => ?_, fun h => ?_⟩
  · obtain ⟨hheld, hsensor, hrest⟩ := exec_wreg_frame h
    exact ⟨hsensor, hheld, hrest⟩
  · obtain ⟨hheld, hsensor, hentries⟩ := exec_read_frame rfl h fun _ => by decide
    exact ⟨hsensor, hheld, hentries⟩
  · obtain ⟨hheld, hsensor, hentries⟩ := exec_read_frame rfl h fun hadm =>
      bne_iff_ne.mp (firstRefusal_eq_none.mp hadm _ List.mem_cons_self)
    exact ⟨hsensor, hheld, hentries⟩

theorem exec_ldcal_frame {dev : DevAddr} {s t : State} (h : exec (.ldcal dev) s = .next t) : SameHeld s t ∧ LdcalFrame s t :=
  exec_frame .ldcalFrame (fun s => ⟨fun _ _ => rfl, by constructor <;> rfl⟩) h fun _ =>
    BodyEnds.step (ldcalStep_ends dev s.beginCommand)
      (fun _ ⟨hsensor, hentries, _⟩ => ⟨hentries, { hsensor with cal := rfl, calValid := rfl }⟩)
      fun _ ⟨hwork, herr, htpc, _, hentries, _, _, _, _, hsensor⟩ => ⟨hwork, herr, htpc, hentries, hsensor⟩

theorem exec_reqm_frame {dev : DevAddr} {s t : State} (h : exec (.reqm dev) s = .next t) : SameHeld s t ∧ ReqmFrame s t :=
  exec_frame .reqmFrame (fun s => ⟨.refl s, rfl, by constructor <;> rfl⟩) h fun _ =>
    BodyEnds.step (reqmStep_ends dev (s := s.beginCommand) rfl)
      (fun _ ⟨hbuffer, hresult, hsensor⟩ => ⟨hbuffer, hresult,
        { hsensor with measOk := rfl, rawTValid := rfl, rawPValid := rfl, tFineValid := rfl }⟩)
      fun _ ⟨hwork, herr, htpc, _, hbuffer, hresult, hsensor⟩ => ⟨hwork, herr, htpc, hbuffer, hresult,
        { hsensor with measOk := rfl, rawTValid := rfl, rawPValid := rfl, tFineValid := rfl }⟩

theorem exec_rdrt_frame {dev : DevAddr} {s t : State} (h : exec (.rdrt dev) s = .next t) : SameHeld s t ∧ RdrtFrame s t :=
  exec_frame .rdrtFrame (fun s => ⟨fun _ _ => rfl, by constructor <;> rfl⟩) h fun _ =>
    BodyEnds.step (rdrtStep_ends dev s.beginCommand)
      (fun _ ⟨hentries, _, hsensor⟩ => ⟨hentries, { hsensor with rawT := rfl, rawTValid := rfl }⟩)
      fun _ ⟨hwork, herr, htpc, _, hentries, _, _, _, hsensor⟩ => ⟨hwork, herr, htpc, hentries, hsensor⟩

theorem exec_rdrp_frame {dev : DevAddr} {s t : State} (h : exec (.rdrp dev) s = .next t) : SameHeld s t ∧ RdrpFrame s t :=
  exec_frame .rdrpFrame (fun s => ⟨fun _ _ => rfl, by constructor <;> rfl⟩) h fun _ =>
    BodyEnds.step (rdrpStep_ends dev s.beginCommand)
      (fun _ ⟨hentries, _, hsensor⟩ => ⟨hentries, { hsensor with rawP := rfl, rawPValid := rfl }⟩)
      fun _ ⟨hwork, herr, htpc, _, hentries, _, _, _, hsensor⟩ => ⟨hwork, herr, htpc, hentries, hsensor⟩

/-- Settles O39. -/
theorem sensorAccessFrame : Obligations.SensorAccessFrame := by
  unfold Obligations.SensorAccessFrame
  exact fun dev s t => ⟨exec_ldcal_frame, exec_reqm_frame, exec_rdrt_frame, exec_rdrp_frame⟩

theorem exec_sread_frame {dev : DevAddr} {s t : State} (h : exec (.sread dev) s = .next t) : SameHeld s t ∧ SreadFrame s t :=
  exec_frame .sreadFrame (fun s => .refl s) h fun hadm =>
    BodyEnds.step (sreadBody_ends dev (s := s.beginCommand) rfl
        (firstRefusal_eq_none.mp hadm s.beginCommand.needsCalibration (by simp [commandChecks])))
      (fun _ hcycle => { hcycle with rdT := rfl, rdP := rfl })
      fun _ ⟨hwork, herr, htpc, _, _, _, hcycle⟩ => ⟨hwork, herr, htpc, hcycle⟩

theorem exec_sinit_frame {dev : DevAddr} {s t : State} (h : exec (.sinit dev) s = .next t) :
    SameHeld s t ∧ SameEntriesFrom 24 s t :=
  exec_frame (.sameEntriesFrom 24) (fun _ _ _ => rfl) h fun _ =>
    BodyEnds.step (sinitBody_ends dev (s := s.beginCommand) rfl) (fun _ hwarm => hwarm.entries)
      fun _ ⟨hwork, herr, htpc, _, _, _, _, _, hwarm⟩ => ⟨hwork, herr, htpc, hwarm.entries⟩

/-- Settles O51. -/
theorem cycleFrame : Obligations.CycleFrame := by
  unfold Obligations.CycleFrame
  intro dev s t
  refine ⟨fun h => ?_, exec_sinit_frame⟩
  obtain ⟨hheld, hcycle⟩ := exec_sread_frame h
  exact ⟨hheld, hcycle.entries, hcycle.cal, hcycle.calValid, hcycle.accT, hcycle.accP, hcycle.cyc⟩

end Sys2Proof.Machine
end

section
/-! SUPPORT. Calibration pairs (spec/42_sensor_access.md R191) and the compensation over the integers (spec/43_compensation.md
R211 to R218): each operation has one lemma that gives its value, and the two routines follow by `simp`. -/

namespace Sys2Proof.Machine

/-! ### Calibration pairs -/

theorem toNat_calPair (lo hi : Byte) : (calPair lo hi).toNat = lo.toNat + 256 * hi.toNat := by
  rw [calPair, BitVec.toNat_or, toNat_setWidth_shiftLeft hi (by decide), BitVec.toNat_setWidth_of_le (by decide), Nat.or_comm,
    ← Nat.shiftLeft_add_eq_or_of_lt lo.isLt]
  omega

/-- The two bytes of a field, joined. -/
@[simp] theorem calPair_extract (v : BitVec 16) : calPair (v.extractLsb' 0 8) (v.extractLsb' 8 8) = v := by
  apply BitVec.eq_of_toNat_eq
  rw [toNat_calPair, BitVec.extractLsb'_toNat, BitVec.extractLsb'_toNat, Nat.shiftRight_eq_div_pow, Nat.shiftRight_eq_div_pow]
  have := v.isLt
  omega

@[simp] theorem extract_calPair_lo (lo hi : Byte) : (calPair lo hi).extractLsb' 0 8 = lo := by
  apply BitVec.eq_of_toNat_eq
  rw [BitVec.extractLsb'_toNat, toNat_calPair, Nat.shiftRight_zero]
  have := lo.isLt
  omega

@[simp] theorem extract_calPair_hi (lo hi : Byte) : (calPair lo hi).extractLsb' 8 8 = hi := by
  apply BitVec.eq_of_toNat_eq
  rw [BitVec.extractLsb'_toNat, toNat_calPair, Nat.shiftRight_eq_div_pow]
  have := lo.isLt
  have := hi.isLt
  omega

theorem toInt_calPair (lo hi : Byte) :
    (calPair lo hi).toInt = if (lo.toNat + 256 * hi.toNat : Int) < 32768 then (lo.toNat + 256 * hi.toNat : Int)
      else lo.toNat + 256 * hi.toNat - 65536 := by
  have := toNat_calPair lo hi
  rw [BitVec.toInt_eq_toNat_cond]
  split <;> split <;> omega

/-- A value zero-extended into a wider word is not negative (R212). -/
theorem toInt_setWidth_of_lt {n : Nat} (hn : n < 32) (v : BitVec n) : (v.setWidth 32 : Word).toInt = v.toNat := by
  have hlt : v.toNat < 2 ^ 31 := v.isLt.trans_le (Nat.pow_le_pow_right (by decide) (by omega))
  rw [BitVec.toInt_eq_toNat_cond, BitVec.toNat_setWidth_of_le hn.le]
  split <;> omega

@[simp] theorem toInt_ofU16 (v : BitVec 16) : (ofU16 v).toInt = v.toNat := toInt_setWidth_of_lt (by decide) v

@[simp] theorem toInt_ofRaw (v : RawCode) : (ofRaw v).toInt = v.toNat := toInt_setWidth_of_lt (by decide) v

@[simp] theorem toInt_ofI16 (v : BitVec 16) : (ofI16 v).toInt = v.toInt :=
  BitVec.toInt_signExtend_of_le (by decide)

/-- The host's value of field `k`: T1 and P1 unsigned, the others signed (R37). -/
theorem Calib.hostWord_ofBytes (b : Nat → Byte) (k : Nat) (hk : k < 12) :
    (Calib.ofBytes b).hostWord k = some (if k = 0 ∨ k = 3 then ofU16 (calPair (b (2 * k)) (b (2 * k + 1)))
      else ofI16 (calPair (b (2 * k)) (b (2 * k + 1)))) := by
  interval_cases k <;> rfl

/-- Settles O33. -/
theorem calibrationRoundTrip : Obligations.CalibrationRoundTrip := by
  unfold Obligations.CalibrationRoundTrip
  refine ⟨fun c => ⟨rfl, ?_⟩, fun b => ?_, fun b k hk => ⟨_, Calib.hostWord_ofBytes b k hk, ?_⟩⟩
  · simp [Calib.ofBytes, Calib.bytes]
  · simp [Calib.ofBytes, Calib.bytes, List.range_succ]
  · split
    · rw [toInt_ofU16, toNat_calPair]
      push_cast
      rfl
    · rw [toInt_ofI16, toInt_calPair]

/-! ### Unsigned operations (R211) -/

@[simp] theorem toNat_umul32 (a b : Word) : (umul32 a b).toNat = a.toNat * b.toNat % 4294967296 := BitVec.toNat_mul a b

@[simp] theorem toNat_udiv32 (a b : Word) : (udiv32 a b).toNat = a.toNat / b.toNat := BitVec.toNat_udiv

@[simp] theorem toNat_ushl32 (a : Word) (n : Nat) : (ushl32 a n).toNat = a.toNat * 2 ^ n % 4294967296 := by
  rw [ushl32, BitVec.toNat_shiftLeft, Nat.shiftLeft_eq]

/-- A difference is taken modulo 2^32 over the integers. -/
@[simp] theorem toNat_usub32 (a b : Word) : ((usub32 a b).toNat : Int) = ((a.toNat : Int) - b.toNat) % 4294967296 := by
  have := b.isLt
  rw [usub32, BitVec.toNat_sub]
  omega

/-- Settles O41. -/
theorem unsignedArithmetic : Obligations.UnsignedArithmetic := by
  unfold Obligations.UnsignedArithmetic
  exact ⟨fun a b => ⟨toNat_uadd32 a b, toNat_usub32 a b, toNat_umul32 a b, fun _ => toNat_udiv32 a b⟩,
    fun a n _ => ⟨toNat_ushl32 a n, toNat_ushr32 a n⟩⟩

/-! ### The temperature (R213, R214) -/

theorem wrap32_eq_self {z : Int} (hlow : -2147483648 ≤ z) (hhigh : z ≤ 2147483647) : wrap32 z = z := by
  unfold wrap32
  omega

theorem toInt_compTFine (raw : RawCode) (t1 t2 t3 : BitVec 16) :
    (compTFine raw t1 t2 t3).toInt = intTFine raw.toNat t1.toNat t2.toInt t3.toInt := by
  simp [compTFine, intTFine]

theorem toInt_compTemp (f : Word) : (compTemp f).toInt = intTemp f.toInt := by
  simp [compTemp, intTemp]

/-- The two parts of `t_fine` are a word shifted right by 11 and one shifted right by 14 (R214). -/
theorem compTFine_bounds (raw : RawCode) (t1 t2 t3 : BitVec 16) : |(compTFine raw t1 t2 t3).toInt| < 2097152 := by
  have parts : ∃ x y : Word, compTFine raw t1 t2 t3 = add32 (asr32 x 11) (asr32 y 14) := ⟨_, _, rfl⟩
  obtain ⟨x, y, hparts⟩ := parts
  have hx := x.toInt_lt
  have hx' := x.le_toInt
  have hy := y.toInt_lt
  have hy' := y.le_toInt
  rw [hparts, toInt_add32, toInt_asr32, toInt_asr32, wrap32_eq_self (by omega) (by omega), abs_lt]
  constructor <;> omega

/-- The last operations of the temperature do not wrap (R214). -/
theorem toInt_compTemp_of_bounds {f : Word} (h : |f.toInt| < 2097152) : (compTemp f).toInt = (f.toInt * 5 + 128) / 256 := by
  rw [abs_lt] at h
  rw [toInt_compTemp, intTemp, wrap32_eq_self (z := f.toInt * 5) (by omega) (by omega), wrap32_eq_self (by omega) (by omega)]
  rfl

/-- Settles O42. -/
theorem temperatureIsTheIntegerRoutine : Obligations.TemperatureIsTheIntegerRoutine := by
  unfold Obligations.TemperatureIsTheIntegerRoutine
  exact ⟨fun raw t1 t2 t3 => ⟨toInt_compTFine raw t1 t2 t3, compTFine_bounds raw t1 t2 t3,
    toInt_compTemp_of_bounds (compTFine_bounds raw t1 t2 t3)⟩, toInt_compTemp, by decide, by decide⟩

/-! ### The pressure (R217, R218) -/

/-- The unsigned value of a word from its signed one (R8). -/
theorem asU32_toInt (x : Word) : asU32 x.toInt = x.toNat := by
  have := x.isLt
  rw [asU32, BitVec.toInt_eq_toNat_cond]
  split <;> omega

/-- The signed value of a word from its unsigned one (R8). -/
theorem toInt_eq_asI32 (x : Word) : x.toInt = asI32 x.toNat := by
  have := x.isLt
  rw [asI32, BitVec.toInt_eq_toNat_cond]
  split <;> split <;> omega

/-! The four parts of the integer pseudocode of R218, for the coefficients of a record. -/

def intOffset (f : Int) (c : Calib) : Int :=
  let a1 := wrap32 (f / 2 ^ 1 - 64000)
  let q := wrap32 (a1 / 2 ^ 2 * (a1 / 2 ^ 2))
  let b1 := wrap32 (q / 2 ^ 11 * c.p6.toInt)
  let b2 := wrap32 (b1 + wrap32 (wrap32 (a1 * c.p5.toInt) * 2 ^ 1))
  wrap32 (b2 / 2 ^ 2 + wrap32 (c.p4.toInt * 2 ^ 16))

def intDenominator (f : Int) (c : Calib) : Int :=
  let a1 := wrap32 (f / 2 ^ 1 - 64000)
  let q := wrap32 (a1 / 2 ^ 2 * (a1 / 2 ^ 2))
  let a2 := wrap32 (wrap32 (c.p3.toInt * (q / 2 ^ 13)) / 2 ^ 3 + wrap32 (c.p2.toInt * a1) / 2 ^ 1) / 2 ^ 18
  wrap32 (wrap32 (32768 + a2) * c.p1.toNat) / 2 ^ 15

def intNumerator (raw f : Int) (c : Calib) : Int :=
  (asU32 (wrap32 (1048576 - raw)) - asU32 (intOffset f c / 2 ^ 12)) % 4294967296 * 3125 % 4294967296

def intQuotient (n a : Int) : Int :=
  if n < 2147483648 then n * 2 % 4294967296 / asU32 a else n / asU32 a * 2 % 4294967296

def intCorrect (n : Int) (c : Calib) : Int :=
  let c1 := wrap32 (c.p9.toInt * asI32 (n / 2 ^ 3 * (n / 2 ^ 3) % 4294967296 / 2 ^ 13)) / 2 ^ 12
  let c2 := wrap32 (asI32 (n / 2 ^ 2) * c.p8.toInt) / 2 ^ 13
  asU32 (wrap32 (asI32 n + wrap32 (wrap32 (c1 + c2) + c.p7.toInt) / 2 ^ 4))

/-- The pseudocode is made of its parts. -/
theorem intCompP_eq (raw f : Int) (c : Calib) :
    intCompP raw f c.p1.toNat c.p2.toInt c.p3.toInt c.p4.toInt c.p5.toInt c.p6.toInt c.p7.toInt c.p8.toInt c.p9.toInt
      = if intDenominator f c = 0 then (0, true)
        else (intCorrect (intQuotient (intNumerator raw f c) (intDenominator f c)) c, false) := rfl

section
variable (raw : RawCode) (f : Word) (c : Calib)

theorem toInt_pressOffset : (pressOffset f c).toInt = intOffset f.toInt c := by
  simp [pressOffset, intOffset]

theorem toInt_pressDenominator : (pressDenominator f c).toInt = intDenominator f.toInt c := by
  simp [pressDenominator, intDenominator]

theorem toNat_pressNumerator : ((pressNumerator raw f c).toNat : Int) = intNumerator raw.toNat f.toInt c := by
  have hraw : ((sub32 1048576#32 (ofRaw raw)).toNat : Int) = asU32 (wrap32 (1048576 - raw.toNat)) := by
    rw [← asU32_toInt, toInt_sub32, toInt_ofRaw]
    rfl
  have hoffset : ((asr32 (pressOffset f c) 12).toNat : Int) = asU32 (intOffset f.toInt c / 2 ^ 12) := by
    rw [← asU32_toInt, toInt_asr32, toInt_pressOffset]
  rw [pressNumerator, toNat_umul32, intNumerator, ← hraw, ← hoffset, ← toNat_usub32]
  push_cast
  rfl

theorem toNat_pressQuotient (p a : Word) : ((pressQuotient p a).toNat : Int) = intQuotient p.toNat a.toInt := by
  rw [pressQuotient, intQuotient, asU32_toInt]
  by_cases hsmall : p.toNat < 0x80000000
  · rw [if_pos hsmall, if_pos (by omega), toNat_udiv32, toNat_ushl32]
    push_cast
    rfl
  · rw [if_neg hsmall, if_neg (by omega), toNat_umul32, toNat_udiv32]
    push_cast
    rfl

/-- A logical shift as an operand of a signed operation (R218). -/
theorem toInt_ushr32 (x : Word) (n : Nat) : (ushr32 x n).toInt = asI32 ((x.toNat : Int) / 2 ^ n) := by
  rw [toInt_eq_asI32, toNat_ushr32]
  push_cast
  rfl

theorem toNat_pressCorrect (p : Word) : ((pressCorrect p c).toNat : Int) = intCorrect p.toNat c := by
  have hsquare : ((umul32 (ushr32 p 3) (ushr32 p 3)).toNat : Int)
      = (p.toNat : Int) / 2 ^ 3 * ((p.toNat : Int) / 2 ^ 3) % 4294967296 := by
    rw [toNat_umul32, toNat_ushr32]
    push_cast
    rfl
  rw [← asU32_toInt, pressCorrect, intCorrect]
  simp only [toInt_add32, toInt_asr32, toInt_mul32, toInt_ushr32, toInt_ofI16, hsquare, toInt_eq_asI32 p]

/-- The pressure and the guard are those of the pseudocode (R218). -/
theorem compP_eq_intCompP :
    intCompP raw.toNat f.toInt c.p1.toNat c.p2.toInt c.p3.toInt c.p4.toInt c.p5.toInt c.p6.toInt c.p7.toInt c.p8.toInt
      c.p9.toInt = (((compP raw f c).1.toNat : Int), (compP raw f c).2) := by
  have hguard : pressDenominator f c = 0#32 ↔ intDenominator f.toInt c = 0 := by
    rw [← toInt_pressDenominator, BitVec.toInt_inj.symm]
    rfl
  rw [intCompP_eq, compP]
  by_cases hzero : pressDenominator f c = 0#32
  · rw [if_pos hzero, if_pos (hguard.mp hzero)]
    rfl
  · rw [if_neg hzero, if_neg (hguard.not.mp hzero), toNat_pressCorrect, toNat_pressQuotient, toNat_pressNumerator,
      toInt_pressDenominator]

/-- With `P1 = 0` the denominator is 0 (R217). -/
theorem compP_of_p1_zero (h : c.p1 = 0#16) : compP raw f c = (0#32, true) := by
  have hzero : pressDenominator f c = 0#32 := by
    apply BitVec.eq_of_toInt_eq
    simp [toInt_pressDenominator, intDenominator, h, wrap32]
  rw [compP, if_pos hzero]

theorem compP_of_guard (h : (compP raw f c).2 = true) : (compP raw f c).1 = 0#32 := by
  rw [compP] at h ⊢
  split at h
  · rw [if_pos ‹_›]
  · cases h

end

/-- Settles O43. -/
theorem pressureIsTheIntegerRoutine : Obligations.PressureIsTheIntegerRoutine := by
  unfold Obligations.PressureIsTheIntegerRoutine
  exact ⟨fun raw f c => ⟨compP_eq_intCompP raw f c, compP_of_p1_zero raw f c, compP_of_guard raw f c⟩, by decide⟩

end Sys2Proof.Machine
end

section
/-! SUPPORT. Measurement cycles against a device that acknowledges everything and hands out its samples
(spec/44_measurement_cycles.md R251 to R254): every step is a write of sensor registers as a function of the sensor registers, after
its part of the bus events. -/

namespace Sys2Proof.Machine

open Sys2Proof.Config

/-! ### What the steps write -/

/-- A write of sensor registers that looks at sensor registers alone. -/
structure SensorWrite (f : State → State) : Prop where
  sensor : ∀ {s t}, SameSensor s t → SameSensor (f s) (f t)
  hist : ∀ s, (f s).hist = s.hist

/-- S2 (R192). -/
def State.opened (s : State) : State :=
  { s with measOk := true, rawTValid := false, rawPValid := false, tFineValid := false }

/-- S3 on a sample (R193). -/
def State.withRawT (c : Sample) (s : State) : State := { s with rawT := c.rawT, rawTValid := true }

/-- S4 (R215). -/
def State.compensatedT (s : State) : State :=
  { s with
    temp := compTemp (compTFine s.rawT s.cal.t1 s.cal.t2 s.cal.t3)
    tFine := compTFine s.rawT s.cal.t1 s.cal.t2 s.cal.t3
    tFineValid := true }

/-- S5 (R254). -/
def State.averagedT (s : State) : State := { s with accT := avg s.accT s.temp }

/-- S6 on a sample (R194). -/
def State.withRawP (c : Sample) (s : State) : State := { s with rawP := c.rawP, rawPValid := true }

/-- S7 (R219). -/
def State.compensatedP (s : State) : State :=
  { s with press := (compP s.rawP s.tFine s.cal).1, divg := (compP s.rawP s.tFine s.cal).2 }

/-- S8 (R254). -/
def State.averagedP (s : State) : State := { s with accP := avg s.accP s.press, cyc := s.cyc + 1 }

/-- S1 on the bytes of a calibration block (R190). -/
def State.withCal (bytes : List Byte) (s : State) : State :=
  { s with cal := Calib.ofBytes fun k => bytes.getD k 0, calValid := true }

/-- The seed (R253). -/
def State.seeded (s : State) : State := { s with accT := s.rdT, accP := s.rdP, cyc := 0 }

theorem SensorWrite.opened : SensorWrite State.opened :=
  ⟨fun h => { h with measOk := rfl, rawTValid := rfl, rawPValid := rfl, tFineValid := rfl }, fun _ => rfl⟩

theorem SensorWrite.withRawT (c : Sample) : SensorWrite (State.withRawT c) :=
  ⟨fun h => { h with rawT := rfl, rawTValid := rfl }, fun _ => rfl⟩

theorem SensorWrite.compensatedT : SensorWrite State.compensatedT :=
  ⟨fun h => { h with
    temp := by simp only [State.compensatedT, h.rawT, h.cal]
    tFine := by simp only [State.compensatedT, h.rawT, h.cal]
    tFineValid := rfl }, fun _ => rfl⟩

theorem SensorWrite.averagedT : SensorWrite State.averagedT :=
  ⟨fun h => { h with accT := by simp only [State.averagedT, h.accT, h.temp] }, fun _ => rfl⟩

theorem SensorWrite.withRawP (c : Sample) : SensorWrite (State.withRawP c) :=
  ⟨fun h => { h with rawP := rfl, rawPValid := rfl }, fun _ => rfl⟩

theorem SensorWrite.compensatedP : SensorWrite State.compensatedP :=
  ⟨fun h => { h with
    press := by simp only [State.compensatedP, h.rawP, h.tFine, h.cal]
    divg := by simp only [State.compensatedP, h.rawP, h.tFine, h.cal] }, fun _ => rfl⟩

theorem SensorWrite.averagedP : SensorWrite State.averagedP :=
  ⟨fun h => { h with
    accP := by simp only [State.averagedP, h.accP, h.press]
    cyc := by simp only [State.averagedP, h.cyc] }, fun _ => rfl⟩

theorem SensorWrite.withCal (bytes : List Byte) : SensorWrite (State.withCal bytes) :=
  ⟨fun h => { h with cal := rfl, calValid := rfl }, fun _ => rfl⟩

theorem SensorWrite.seeded : SensorWrite State.seeded :=
  ⟨fun h => { h with accT := h.rdT, accP := h.rdP, cyc := rfl }, fun _ => rfl⟩

/-! ### The steps -/

/-- `t` has the sensor registers of `s`, after the given events of complete transactions, with the bus free and the buffer
canonical. -/
structure Completed (s : State) (events : List BusEvent) (rest : List Reply) (t : State) : Prop where
  sensor : SameSensor s t
  owned : t.owned = false
  phase : events = [] ∨ t.phase = .stopped
  wf : t.rxbuf.wf = true
  hist : t.hist = s.hist ++ events
  answers : t.answers = rest

theorem Completed.start {s : State} {rest : List Reply} (howned : s.owned = false) (hwf : s.rxbuf.wf = true)
    (hanswers : s.answers = rest) : Completed s [] rest s :=
  ⟨.refl s, howned, .inl rfl, hwf, (List.append_nil _).symm, hanswers⟩

section
variable {dev : DevAddr} {c : Sample} {s t : State} {events : List BusEvent} {rest : List Reply} {sp : SLabel}

/-- A transaction that ended with a stop, and a write of sensor registers. -/
theorem Completed.next {f : State → State} {r : List Reply} (h : Completed s events r t) (hf : SensorWrite f) {u : State}
    {more : List BusEvent} (hs : SameSensor (f t) u) (hp : u.phase = .stopped) (hwf : u.rxbuf.wf = true)
    (hh : u.hist = t.hist ++ more) (ha : u.answers = rest) : Completed (f s) (events ++ more) rest u where
  sensor := (hf.sensor h.sensor).trans hs
  owned := by rw [State.owned, hp]
  phase := .inr hp
  wf := hwf
  hist := by rw [hh, h.hist, hf.hist, List.append_assoc]
  answers := ha

/-- A step without bus work. -/
theorem Completed.quiet {f : State → State} (h : Completed s events rest t) (hf : SensorWrite f) {u : State}
    (hs : SameSensor (f t) u) (hbus : SameBus t u) (hb : u.rxbuf = t.rxbuf) : Completed (f s) events rest u where
  sensor := (hf.sensor h.sensor).trans hs
  owned := by
    rw [State.owned, hbus.phase]
    exact h.owned
  phase := h.phase.imp_right hbus.phase.trans
  wf := hb ▸ h.wf
  hist := by rw [hbus.hist, h.hist, hf.hist]
  answers := hbus.answers.trans h.answers

theorem Completed.reqm (h : Completed s events (ackedWrite ++ rest) t) :
    ∃ u, sensorStep sp (reqmStep dev) t = .done u ∧ Completed s.opened (events ++ writeEvents dev 0xF4 0x25) rest u :=
  ⟨_, reqmStep_acked (s := { t with spc := sp }) h.owned h.answers,
    h.next .opened (by constructor <;> rfl) rfl h.wf rfl rfl⟩

theorem Completed.rdrt (h : Completed s events (ackedRead [c.t0, c.t1, c.t2] ++ rest) t) :
    ∃ u, sensorStep sp (rdrtStep dev) t = .done u
      ∧ Completed (s.withRawT c) (events ++ readEvents dev 0xFA [c.t0, c.t1, c.t2]) rest u :=
  ⟨_, rdrtStep_acked (s := { t with spc := sp }) h.owned h.wf h.answers,
    h.next (.withRawT c) (by constructor <;> rfl) rfl (storeBytes_wf h.wf (by simp)) rfl rfl⟩

theorem Completed.rdrp (h : Completed s events (ackedRead [c.p0, c.p1, c.p2] ++ rest) t) :
    ∃ u, sensorStep sp (rdrpStep dev) t = .done u
      ∧ Completed (s.withRawP c) (events ++ readEvents dev 0xF7 [c.p0, c.p1, c.p2]) rest u :=
  ⟨_, rdrpStep_acked (s := { t with spc := sp }) h.owned h.wf h.answers,
    h.next (.withRawP c) (by constructor <;> rfl) rfl (storeBytes_wf h.wf (by simp)) rfl rfl⟩

theorem Completed.ldcal {bytes : List Byte} (hlen : bytes.length = 24) (h : Completed s events (ackedRead bytes ++ rest) t) :
    ∃ u, sensorStep sp (ldcalStep dev) t = .done u
      ∧ Completed (s.withCal bytes) (events ++ readEvents dev 0x88 bytes) rest u :=
  ⟨_, ldcalStep_acked (s := { t with spc := sp }) h.owned h.wf hlen h.answers,
    h.next (.withCal bytes) (by constructor <;> rfl) rfl (storeBytes_wf h.wf (by omega)) rfl rfl⟩

/-- A step that is a write of sensor registers. -/
theorem Completed.sensorStep {f : State → State} {step : State → Run} (hf : SensorWrite f)
    (hstep : ∀ s, step s = .done (f s)) (h : Completed s events rest t)
    (hs : SameSensor (f t) (f { t with spc := sp })) (hbus : SameBus t (f { t with spc := sp }))
    (hb : (f { t with spc := sp }).rxbuf = t.rxbuf) :
    ∃ u, sensorStep sp step t = .done u ∧ Completed (f s) events rest u :=
  ⟨_, hstep _, h.quiet hf hs hbus hb⟩

theorem Completed.cmpt (h : Completed s events rest t) :
    ∃ u, Machine.sensorStep sp cmptStep t = .done u ∧ Completed s.compensatedT events rest u :=
  h.sensorStep .compensatedT (fun _ => rfl) (by constructor <;> rfl) (by constructor <;> rfl) rfl

theorem Completed.averageT (h : Completed s events rest t) :
    ∃ u, Machine.sensorStep sp averageTemperature t = .done u ∧ Completed s.averagedT events rest u :=
  h.sensorStep .averagedT (fun _ => rfl) (by constructor <;> rfl) (by constructor <;> rfl) rfl

theorem Completed.cmpp (h : Completed s events rest t) :
    ∃ u, Machine.sensorStep sp cmppStep t = .done u ∧ Completed s.compensatedP events rest u :=
  h.sensorStep .compensatedP (fun _ => rfl) (by constructor <;> rfl) (by constructor <;> rfl) rfl

theorem Completed.averageP (h : Completed s events rest t) :
    ∃ u, Machine.sensorStep sp averagePressure t = .done u ∧ Completed s.averagedP events rest u :=
  h.sensorStep .averagedP (fun _ => rfl) (by constructor <;> rfl) (by constructor <;> rfl) rfl

/-! ### Cycles -/

/-- One cycle of SREAD on a sample (R251). -/
def State.sampled (c : Sample) (s : State) : State := ((s.opened.withRawT c).compensatedT.withRawP c).compensatedP

/-- One cycle of SINIT on a sample (R253). -/
def State.smoothed (s : State) (c : Sample) : State :=
  ((s.opened.withRawT c).compensatedT.averagedT.withRawP c).compensatedP.averagedP

theorem State.sampled_eq (c : Sample) (s : State) :
    s.sampled c = { s with
      measOk := true, rawTValid := true, rawPValid := true, tFineValid := true
      rawT := c.rawT, rawP := c.rawP, tFine := c.tFine s.cal, temp := c.temp s.cal
      press := c.press s.cal, divg := (compP c.rawP (c.tFine s.cal) s.cal).2 } := by
  cases s
  rfl

theorem State.smoothed_eq (s : State) (c : Sample) :
    s.smoothed c = { s with
      measOk := true, rawTValid := true, rawPValid := true, tFineValid := true
      rawT := c.rawT, rawP := c.rawP, tFine := c.tFine s.cal, temp := c.temp s.cal
      press := c.press s.cal, divg := (compP c.rawP (c.tFine s.cal) s.cal).2
      accT := avg s.accT (c.temp s.cal), accP := avg s.accP (c.press s.cal), cyc := s.cyc + 1 } := by
  cases s
  rfl

theorem Completed.readingCycle (h : Completed s events (c.replies ++ rest) t) :
    ∃ u, Machine.readingCycle dev t = .done u ∧ Completed (s.sampled c) (events ++ c.events dev) rest u := by
  rw [Sample.replies, List.append_assoc, List.append_assoc] at h
  obtain ⟨t₁, hrun₁, h₁⟩ := h.reqm (dev := dev) (sp := .s2)
  obtain ⟨t₂, hrun₂, h₂⟩ := h₁.rdrt (dev := dev) (sp := .s3)
  obtain ⟨t₃, hrun₃, h₃⟩ := h₂.cmpt (sp := .s4)
  obtain ⟨t₄, hrun₄, h₄⟩ := h₃.rdrp (dev := dev) (sp := .s6)
  obtain ⟨t₅, hrun₅, h₅⟩ := h₄.cmpp (sp := .s7)
  refine ⟨t₅, ?_, ?_⟩
  · simp only [Machine.readingCycle, hrun₁, hrun₂, hrun₃, hrun₄, hrun₅, Run.done_andThen]
  · rw [Sample.events, ← List.append_assoc, ← List.append_assoc]
    exact h₅

theorem Completed.warmupCycle (h : Completed s events (c.replies ++ rest) t) :
    ∃ u, Machine.warmupCycle dev t = .done u ∧ Completed (s.smoothed c) (events ++ c.events dev) rest u := by
  rw [Sample.replies, List.append_assoc, List.append_assoc] at h
  obtain ⟨t₁, hrun₁, h₁⟩ := h.reqm (dev := dev) (sp := .s2)
  obtain ⟨t₂, hrun₂, h₂⟩ := h₁.rdrt (dev := dev) (sp := .s3)
  obtain ⟨t₃, hrun₃, h₃⟩ := h₂.cmpt (sp := .s4)
  obtain ⟨t₄, hrun₄, h₄⟩ := h₃.averageT (sp := .s5)
  obtain ⟨t₅, hrun₅, h₅⟩ := h₄.rdrp (dev := dev) (sp := .s6)
  obtain ⟨t₆, hrun₆, h₆⟩ := h₅.cmpp (sp := .s7)
  obtain ⟨t₇, hrun₇, h₇⟩ := h₆.averageP (sp := .s8)
  refine ⟨t₇, ?_, ?_⟩
  · simp only [Machine.warmupCycle, hrun₁, hrun₂, hrun₃, hrun₄, hrun₅, hrun₆, hrun₇, Run.done_andThen]
  · rw [Sample.events, ← List.append_assoc, ← List.append_assoc]
    exact h₇

end

/-- The loop of SINIT, one sample for each cycle. -/
theorem Completed.warmup {dev : DevAddr} {rest : List Reply} : ∀ (cs : List Sample) {s t : State} {events : List BusEvent},
    Completed s events (cs.flatMap Sample.replies ++ rest) t →
    ∃ u, Machine.warmup dev cs.length t = .done u
      ∧ Completed (cs.foldl State.smoothed s) (events ++ cs.flatMap (Sample.events dev)) rest u
  | [], s, t, events, h => ⟨t, rfl, by simpa using h⟩
  | c :: cs, s, t, events, h => by
    rw [List.flatMap_cons, List.append_assoc] at h
    obtain ⟨u, hu, hcycle⟩ := h.warmupCycle (dev := dev)
    obtain ⟨v, hv, hloop⟩ := hcycle.warmup cs
    refine ⟨v, ?_, ?_⟩
    · rw [List.length_cons, Machine.warmup, hu, Run.done_andThen, hv]
    · rw [List.flatMap_cons, List.foldl_cons, ← List.append_assoc]
      exact hloop

/-- What the cycles make of the accumulators: the seed smoothed by the compensated samples (R254). -/
theorem accumulators_smoothed (cs : List Sample) : ∀ s : State,
    (cs.foldl State.smoothed s).cal = s.cal ∧ (cs.foldl State.smoothed s).hist = s.hist
      ∧ (cs.foldl State.smoothed s).accT = cs.foldl (fun old c => avg old (c.temp s.cal)) s.accT
      ∧ (cs.foldl State.smoothed s).accP = cs.foldl (fun old c => avg old (c.press s.cal)) s.accP := by
  induction cs with
  | nil => exact fun s => ⟨rfl, rfl, rfl, rfl⟩
  | cons c cs ih =>
    intro s
    obtain ⟨hcal, hhist, haccT, haccP⟩ := ih (s.smoothed c)
    rw [List.foldl_cons, List.foldl_cons, List.foldl_cons, hcal, hhist, haccT, haccP, State.smoothed_eq]
    exact ⟨rfl, rfl, rfl, rfl⟩

/-- A success leaves ERR 0 (R130). -/
theorem err_of_ok {i : Instr} {s t : State} (h : exec i s = .next t) (hok : t.ok = true) : t.err = 0#32 := by
  cases exec_concluded h with
  | succeeded _ _ _ err _ => exact err
  | failed _ _ ok _ _ _ _ => simp [hok] at ok
  | hangs _ ok _ _ _ => simp [hok] at ok

/-- Settles O48: the cycle, then its commit. -/
theorem sreadCompletes : Obligations.SreadCompletes := by
  unfold Obligations.SreadCompletes
  intro dev c s rest hen howned hcal hwf hanswers
  obtain ⟨u, hrun, hdone⟩ := (Completed.start (s := s.beginCommand) howned hwf hanswers).readingCycle (dev := dev)
  rw [State.sampled_eq] at hdone
  have hexec : exec (.sread dev) s = .next { u with spc := .s0, rdT := u.temp, rdP := u.press, ok := true, busy := false } := by
    rw [exec_of_admitted (enabled_admitted hen (by simp [hcal])), commandBody, sreadBody_eq, hrun]
    rfl
  have hsensor := hdone.sensor
  refine ⟨_, hexec, rfl, err_of_ok hexec rfl, hsensor.temp, hsensor.press, hsensor.rawT, hsensor.rawP, hsensor.tFine,
    hsensor.temp, hsensor.press, hsensor.divg, hsensor.measOk, hsensor.rawTValid, hsensor.rawPValid, hsensor.tFineValid,
    hdone.hist, ?_, hdone.answers⟩
  exact hdone.phase.resolve_left (by simp [Sample.events, writeEvents])

/-- Settles O49: the calibration, the seed, ten cycles, then the commit of the accumulators. -/
theorem sinitCompletes : Obligations.SinitCompletes := by
  unfold Obligations.SinitCompletes
  intro dev bytes cs s rest hen howned hwf hlen hcs hanswers k
  rw [List.append_assoc] at hanswers
  obtain ⟨t, ht, hcal⟩ := (Completed.start (s := s.beginCommand) howned hwf hanswers).ldcal (dev := dev) (sp := .s1) hlen
  have hseed : Completed (s.beginCommand.withCal bytes).seeded ([] ++ readEvents dev 0x88 bytes)
      (cs.flatMap Sample.replies ++ rest) t.seeded :=
    hcal.quiet .seeded (.refl _) (by constructor <;> rfl) rfl
  obtain ⟨u, hu, hdone⟩ := hseed.warmup cs (dev := dev)
  obtain ⟨hfoldCal, hfoldHist, haccT, haccP⟩ := accumulators_smoothed cs (s.beginCommand.withCal bytes).seeded
  have hexec : exec (.sinit dev) s = .next { u with spc := .s0, rdT := u.accT, rdP := u.accP, ok := true, busy := false } := by
    have hwhole : warmupWhole dev s.beginCommand = .done u := by
      rw [hcs] at hu
      rw [warmupWhole, ht, Run.done_andThen, loadSeed, Run.done_andThen]
      exact hu
    rw [exec_of_admitted (enabled_admitted hen (by simp)), commandBody, sinitBody_eq, hwhole]
    rfl
  have hsensor := hdone.sensor
  obtain ⟨-, hcyc, hvalid, -⟩ | ⟨hnot, -⟩ := (readingAllOrNothing dev s _).2 hexec
  · refine ⟨_, hexec, rfl, err_of_ok hexec rfl, hsensor.cal.trans hfoldCal, hvalid, hcyc, hsensor.accT.trans haccT,
      hsensor.accP.trans haccP, rfl, rfl, ?_, hdone.answers⟩
    show u.hist = _
    rw [hdone.hist, hfoldHist, List.nil_append, ← List.append_assoc]
    rfl
  · cases hnot

end Sys2Proof.Machine
end

section
/-! SUPPORT. A register read built from primitives (spec/41_bus_transactions.md R167) and the held-bus hazard (R304). -/

namespace Sys2Proof.Machine

open Sys2Proof.Config

/-! ### Primitives one after the other -/

/-- `t` is `s` after primitives that put `events` on the bus, in phase `p` with direction `d`, and `rest` is still to come. -/
structure Driven (s : State) (p : Phase) (d : Dir) (events : List BusEvent) (rest : List Reply) (t : State) : Prop where
  en : t.en = true
  phase : t.phase = p
  dir : t.dir = d
  prescale : t.status &&& 0x03#8 = s.status &&& 0x03#8
  hist : t.hist = s.hist ++ events
  answers : t.answers = rest
  buffer : SameBuffer s t

theorem State.owned_of_phase {s : State} (h : s.phase = .started ∨ s.phase = .addrSent ∨ s.phase = .dataPhase) :
    s.owned = true := by
  obtain h | h | h := h
  all_goals
    rw [State.owned, h]

theorem execAll_next {i : Instr} {s t : State} (h : exec i s = .next t) (more : List Instr) :
    execAll (i :: more) s = execAll more t := by
  rw [execAll, h]

section
variable {s t u : State} {p q : Phase} {d d' : Dir} {events : List BusEvent} {r : Reply} {rest : List Reply}

/-- A primitive with one event, and STAT after it. -/
theorem Driven.polled {i : Instr} {e : BusEvent} {c : StatusCode} {ctrl : Byte}
    (h : Driven s p d events (r :: rest) t) (hexec : exec i t = .next u) (hc : u.ctrl = ctrl)
    (hctrl : ctrl.getLsbD 2 = true) (hp : u.phase = q) (hd : u.dir = d') (hs : u.status = withCode c t.status)
    (hh : u.hist = t.hist ++ [e]) (ha : u.answers = t.answers.tail) (hb : SameBuffer t u) (more : List Instr) :
    ∃ v, execAll (i :: .stat :: more) t = execAll more v ∧ Driven s q d' (events ++ [e]) rest v
      ∧ v.data = u.data ∧ v.result = c.byte := by
  have hen : u.en = true := by rw [State.en, hc, hctrl]
  refine ⟨_, (execAll_next hexec _).trans (execAll_next (statResult u hen) more), ⟨hen, hp, hd, ?_, ?_, ?_, ?_⟩, rfl, ?_⟩
  · show u.status &&& 0x03#8 = _
    rw [hs, withCode_and_prescale, h.prescale]
  · show u.hist = _
    rw [hh, h.hist, List.append_assoc]
  · show u.answers = _
    rw [ha, h.answers]
    rfl
  · exact h.buffer.trans ⟨hb.rxbuf, hb.rxLen, hb.idx⟩
  · show u.status &&& 0xF8#8 = _
    rw [hs, withCode_and_mask]

theorem Driven.start {i : Instr} (hi : i = .start ∨ i = .rstart) (h : Driven s p d events (.done :: rest) t)
    (more : List Instr) :
    ∃ v, execAll (i :: .stat :: more) t = execAll more v
      ∧ Driven s .started .w (events ++ [if t.owned then BusEvent.repStart else BusEvent.start]) rest v := by
  obtain ⟨v, hrun, hv, -⟩ := h.polled (c := startCode t.owned) (ctrl := 0xA4#8)
    ((startAndRstartResult i t hi h.en).1 (State.startReply_of h.answers rfl)) rfl (by decide) rfl rfl
    (by rw [withCode_eq, startCode_byte]) rfl rfl ⟨rfl, rfl, rfl⟩ more
  exact ⟨v, hrun, hv⟩

theorem Driven.address (b : Byte) (h : Driven s .started d events (.ack :: rest) t) (more : List Instr) :
    ∃ v, execAll (.wrb b :: .stat :: more) t = execAll more v
      ∧ Driven s .addrSent (dirOfAddr b) (events ++ [.tx b true]) rest v := by
  obtain ⟨v, hrun, hv, -⟩ := h.polled (c := addrCode (dirOfAddr b) true) (ctrl := 0x84#8)
    ((wrbResult b t h.en (State.owned_of_phase (.inl h.phase)) (.inl h.phase)).1 true (State.sendReply_of h.answers rfl)
      h.phase) rfl (by decide) rfl rfl (by rw [withCode_eq, addrCode_byte]) rfl rfl ⟨rfl, rfl, rfl⟩ more
  exact ⟨v, hrun, hv⟩

theorem Driven.byte (b : Byte) (h : Driven s .addrSent .w events (.ack :: rest) t) (more : List Instr) :
    ∃ v, execAll (.wrb b :: .stat :: more) t = execAll more v ∧ Driven s .dataPhase .w (events ++ [.tx b true]) rest v := by
  obtain ⟨v, hrun, hv, -⟩ := h.polled (c := sentCode true) (ctrl := 0x84#8)
    ((wrbResult b t h.en (State.owned_of_phase (.inr (.inl h.phase))) (.inr h.dir)).2.1 true
      (State.sendReply_of h.answers rfl) (by simp [h.phase])) rfl (by decide) rfl h.dir rfl rfl rfl ⟨rfl, rfl, rfl⟩ more
  exact ⟨v, hrun, hv⟩

/-- The last byte refused, STAT, and the stop: the state of the bus as a read transaction leaves it, with the code of the
receive in RESULT. -/
theorem Driven.lastByte {b : Byte} (h : Driven s .addrSent .r events (.byte b :: .done :: rest) t) :
    ∃ v, execAll [.rdb false, .stat, .stop] t = .next v ∧ v.hist = s.hist ++ (events ++ [.rx b false] ++ [.stop])
      ∧ v.ctrl = 0x04#8 ∧ v.status = 0xF8#8 ||| (s.status &&& 0x03#8) ∧ v.data = b ∧ v.phase = .stopped ∧ v.dir = .w
      ∧ SameBuffer s v ∧ v.result = 0x58#8 := by
  obtain ⟨u, hrun, hu, hdata, hresult⟩ := h.polled (c := recvCode false) (ctrl := 0x84#8)
    ((rdbResult false t h.en (.inl h.phase) h.dir).1 b (State.recvReply_of h.answers rfl)) rfl (by decide) rfl h.dir rfl rfl
    rfl ⟨rfl, rfl, rfl⟩ [.stop]
  have hstop := (stopResult u hu.en).1 (State.owned_of_phase (.inr (.inr hu.phase))) (State.stopReply_of hu.answers rfl)
  refine ⟨_, hrun.trans (execAll_next hstop []), ?_, rfl, ?_, hdata, rfl, rfl, ⟨hu.buffer.rxbuf, hu.buffer.rxLen,
    hu.buffer.idx⟩, hresult⟩
  · show u.hist ++ [.stop] = _
    rw [hu.hist, List.append_assoc]
  · show 0xF8#8 ||| (u.status &&& 0x03#8) = _
    rw [hu.prescale]

end

/-- Settles O28: the program drives the bus as RREG does, and only STAT and RDB write RESULT. -/
theorem primitivesBuildRreg : Obligations.PrimitivesBuildRreg := by
  unfold Obligations.PrimitivesBuildRreg
  intro dev reg b s rest hen howned hwf hanswers
  have hrreg := readsComplete dev reg 1#8 [b] (.rreg dev reg) s rest hen howned rfl (by decide) (.inr ⟨rfl, rfl⟩) hanswers
  have h₀ : Driven s s.phase s.dir [] (ackedRead [b] ++ rest) s :=
    ⟨hen, rfl, rfl, rfl, (List.append_nil _).symm, hanswers, .refl s⟩
  obtain ⟨t₁, hrun₁, h₁⟩ := h₀.start (i := .start) (.inl rfl) _
  obtain ⟨t₂, hrun₂, h₂⟩ := h₁.address (slaW dev) _
  rw [dirOfAddr_slaW] at h₂
  obtain ⟨t₃, hrun₃, h₃⟩ := h₂.byte reg _
  obtain ⟨t₄, hrun₄, h₄⟩ := h₃.start (i := .rstart) (.inr rfl) _
  obtain ⟨t₅, hrun₅, h₅⟩ := h₄.address (slaR dev) _
  rw [dirOfAddr_slaR] at h₅
  obtain ⟨u, hrun₆, hhist, hctrl, hstatus, hdata, hphase, hdir, hbuffer, hresult⟩ := h₅.lastByte
  have hread : (storeBytes s.rxbuf 0 [b]).read 0 = b := read_storeBytes hwf (bytes := [b]) (by simp) 0 (by simp)
  refine ⟨_, u, hrreg, (hrun₁.trans (hrun₂.trans (hrun₃.trans (hrun₄.trans (hrun₅.trans hrun₆))))), ?_, hctrl, hstatus,
    hdata, hphase, hdir, hbuffer, hresult, rfl, hread, rfl⟩
  rw [hhist, howned, State.owned_of_phase (.inr (.inr h₃.phase))]
  rfl

end Sys2Proof.Machine
end

section
/-! SUPPORT. The held-bus hazard (spec/70_reset_and_hazards.md R304): a start of the controller on a bus it still owns is a
repeated start, and T1 does not accept it. -/

namespace Sys2Proof.Machine

open Sys2Proof.Config

/-- The record of a `REP_START` at T1 (R161, R272). -/
def heldRecord (kind : ErrKind) (sp : SLabel) : ErrInfo :=
  { kind := kind, state := .started, expected := 0x08#8, got := 0x10#8, tpc := .t1, spc := sp }

/-- The state in which T1 finds the code of a repeated start. -/
def State.heldStart (s : State) : State :=
  (({ s with tpc := .t1 }.trigger 0x24#8).asked.complete .repStart .started .w .repStart)

/-- An abort does not go on. -/
theorem abortTransaction_andThen (e : ErrInfo) (s : State) (k : State → Run) :
    (abortTransaction e s).andThen k = abortTransaction e s := by
  rw [abortTransaction]
  split
  · cases busStop { s with err := e.word } <;> rfl
  · rfl

section
variable {s : State} (howned : s.owned = true) (hreply : s.startReply = .done)
include howned hreply

theorem seqStep_t1_held (kind : ErrKind) :
    seqStep kind .t1 busStart s = abortTransaction (heldRecord kind s.spc) s.heldStart := by
  have hstart : busStart { s with tpc := .t1 } = .completed s.heldStart := by
    have howned' : State.owned { s with tpc := .t1 } = true := howned
    have hreply' : State.startReply { s with tpc := .t1 } = .done := hreply
    rw [busStart, hreply', howned']
    rfl
  have hcode : s.heldStart.code = StatusCode.repStart.byte := withCode_and_mask _ _
  have hne : StatusCode.repStart.byte ≠ StatusCode.start.byte := by decide
  rw [seqStep, hstart]
  show expectCode kind s.heldStart = _
  have hexpect : expectCode kind s.heldStart
      = if s.heldStart.code = StatusCode.start.byte then .done s.heldStart
        else abortTransaction (s.heldStart.mismatchAt kind .start) s.heldStart := rfl
  rw [hexpect, hcode, if_neg hne, State.mismatchAt, hcode]
  rfl

theorem memWrite_held (dev : DevAddr) (reg v : Byte) :
    memWrite dev reg v s = abortTransaction (heldRecord .protocolStatusMismatch s.spc) s.heldStart := by
  rw [memWrite, preamble, seqStep_t1_held howned hreply, abortTransaction_andThen, abortTransaction_andThen]

theorem memRead_held (kind : ErrKind) (dev : DevAddr) (reg count : Byte) :
    memRead kind dev reg count s
      = abortTransaction (heldRecord kind s.spc) { s with rxLen := 0#8, idx := 0#8 }.heldStart := by
  rw [memRead, preamble, seqStep_t1_held (s := { s with rxLen := 0#8, idx := 0#8 }) howned hreply, abortTransaction_andThen,
    abortTransaction_andThen]

theorem ldcalStep_held (dev : DevAddr) :
    ldcalStep dev s
      = abortTransaction (heldRecord .calibrationUnavailable s.spc) { s with rxLen := 0#8, idx := 0#8 }.heldStart := by
  rw [ldcalStep, memRead_held howned hreply, abortTransaction_andThen]

theorem reqmStep_held (dev : DevAddr) :
    reqmStep dev s = abortTransaction (heldRecord .protocolStatusMismatch s.spc)
      { s with measOk := false, rawTValid := false, rawPValid := false, tFineValid := false }.heldStart := by
  rw [reqmStep, memWrite_held (s := { s with measOk := false, rawTValid := false, rawPValid := false, tFineValid := false })
    howned hreply, abortTransaction_andThen]

theorem rdrtStep_held (dev : DevAddr) :
    rdrtStep dev s = abortTransaction (heldRecord .protocolStatusMismatch s.spc)
      { s with rawTValid := false, rxLen := 0#8, idx := 0#8 }.heldStart := by
  rw [rdrtStep, memRead_held (s := { s with rawTValid := false }) howned hreply, abortTransaction_andThen]

theorem rdrpStep_held (dev : DevAddr) :
    rdrpStep dev s = abortTransaction (heldRecord .protocolStatusMismatch s.spc)
      { s with rawPValid := false, rxLen := 0#8, idx := 0#8 }.heldStart := by
  rw [rdrpStep, memRead_held (s := { s with rawPValid := false }) howned hreply, abortTransaction_andThen]

/-- SREAD aborts in its first step, S2. -/
theorem sreadBody_held (dev : DevAddr) :
    sreadBody dev s = abortTransaction (heldRecord .protocolStatusMismatch .s2)
      { s with spc := .s2, measOk := false, rawTValid := false, rawPValid := false, tFineValid := false }.heldStart := by
  rw [sreadBody, sensorStep, reqmStep_held (s := { s with spc := .s2 }) howned hreply, abortTransaction_andThen]

/-- SINIT aborts in its first step, S1. -/
theorem sinitBody_held (dev : DevAddr) :
    sinitBody dev s = abortTransaction (heldRecord .calibrationUnavailable .s1)
      { s with spc := .s1, rxLen := 0#8, idx := 0#8 }.heldStart := by
  rw [sinitBody, sensorStep, ldcalStep_held (s := { s with spc := .s1 }) howned hreply, abortTransaction_andThen]

end

/-- A state in the middle of a command that began in `s`, after the repeated start. -/
structure HeldFrom (s u : State) : Prop where
  cfg : u.cfg = s.cfg
  phase : u.phase = .started
  hist : u.hist = s.hist ++ [.repStart]
  answers : u.answers = s.answers.tail
  ok : u.ok = false
  fail : u.fail = false
  busy : u.busy = true

/-- The commands that put a transaction on the bus, admitted, with the record of the hazard (R304). -/
def HeldCommand (s : State) (e : Word) (i : Instr) : Prop :=
  (e = 0x01100811#32 ∧ ((∃ dev reg v, i = .wreg dev reg v) ∨ (∃ dev reg, i = .rreg dev reg)
      ∨ (∃ dev reg c, i = .rburst dev reg c ∧ c ≠ 0#8) ∨ (∃ dev, i = .reqm dev)
      ∨ (s.measOk = true ∧ ((∃ dev, i = .rdrt dev) ∨ ∃ dev, i = .rdrp dev))))
    ∨ (e = 0x01100812#32 ∧ ∃ dev, i = .ldcal dev)
    ∨ (e = 0x11100812#32 ∧ ∃ dev, i = .sinit dev)
    ∨ (e = 0x21100811#32 ∧ s.calValid = true ∧ ∃ dev, i = .sread dev)

/-- The records of the hazard as numbers (R36). -/
theorem heldRecord_words :
    (heldRecord .protocolStatusMismatch .s0).word = 0x01100811#32
      ∧ (heldRecord .calibrationUnavailable .s0).word = 0x01100812#32
      ∧ (heldRecord .calibrationUnavailable .s1).word = 0x11100812#32
      ∧ (heldRecord .protocolStatusMismatch .s2).word = 0x21100811#32 := by decide

theorem HeldCommand.admitted {s : State} {e : Word} {i : Instr} (hen : s.en = true) (h : HeldCommand s e i) :
    firstRefusal (commandChecks i s.beginCommand) = none := by
  apply enabled_admitted hen
  obtain ⟨-, h | h | h | h | h⟩ | ⟨-, h⟩ | ⟨-, h⟩ | ⟨-, h⟩ := h
  all_goals simp only [h, true_or, or_true, true_and]

/-- Every such command aborts at its first step. -/
theorem commandBody_held {i : Instr} {s : State} {e : Word} (howned : s.owned = true) (hreply : s.startReply = .done)
    (hi : HeldCommand s e i) :
    ∃ r u, r.word = e ∧ HeldFrom s u ∧ commandBody i s.beginCommand = abortTransaction r u := by
  have ho : s.beginCommand.owned = true := howned
  have hr : s.beginCommand.startReply = .done := hreply
  obtain ⟨hs0, hs0cal, hs1, hs2⟩ := heldRecord_words
  obtain ⟨rfl, ⟨dev, reg, v, rfl⟩ | ⟨dev, reg, rfl⟩ | ⟨dev, reg, c, rfl, -⟩ | ⟨dev, rfl⟩ | ⟨-, ⟨dev, rfl⟩ | ⟨dev, rfl⟩⟩⟩
    | ⟨rfl, dev, rfl⟩ | ⟨rfl, dev, rfl⟩ | ⟨rfl, -, dev, rfl⟩ := hi
  · exact ⟨_, _, hs0, by constructor <;> rfl, memWrite_held ho hr dev reg v⟩
  · exact ⟨_, _, hs0, by constructor <;> rfl, memRead_held ho hr _ dev reg 1#8⟩
  · exact ⟨_, _, hs0, by constructor <;> rfl, memRead_held ho hr _ dev reg c⟩
  · exact ⟨_, _, hs0, by constructor <;> rfl, reqmStep_held ho hr dev⟩
  · exact ⟨_, _, hs0, by constructor <;> rfl, rdrtStep_held ho hr dev⟩
  · exact ⟨_, _, hs0, by constructor <;> rfl, rdrpStep_held ho hr dev⟩
  · exact ⟨_, _, hs0cal, by constructor <;> rfl, ldcalStep_held ho hr dev⟩
  · exact ⟨_, _, hs1, by constructor <;> rfl, sinitBody_held ho hr dev⟩
  · exact ⟨_, _, hs2, by constructor <;> rfl, sreadBody_held ho hr dev⟩

/-! ### The stop of an abort (R165, R277) -/

section
variable {e : ErrInfo} {u : State} (hstop : u.cfg.stopOnAbort = true) (howned : u.owned = true)
include hstop howned

/-- The stop of an abort that is answered. -/
theorem abortTransaction_stopped (hreply : u.stopReply = .done) :
    abortTransaction e u = .failed (({ ({ u with err := e.word }.trigger 0x14#8).asked with
      hist := u.hist ++ [BusEvent.stop] }.released).failWith e) := by
  have howned' : State.owned { u with err := e.word } = true := howned
  have hreply' : State.stopReply { u with err := e.word } = .done := hreply
  rw [abortTransaction, if_pos hstop, busStop, if_pos howned', hreply']

/-- The stop of an abort that is never answered: the limit decides. -/
theorem abortTransaction_unstopped (hreply : u.stopReply = .never) :
    (∀ n, u.cfg.waitLimit = .finite n →
      abortTransaction e u = .failed (({ u with err := e.word }.trigger 0x14#8).asked.failWith e))
    ∧ (u.cfg.waitLimit = .inf → abortTransaction e u = .hung ({ u with err := e.word }.trigger 0x14#8).asked) := by
  have howned' : State.owned { u with err := e.word } = true := howned
  have hreply' : State.stopReply { u with err := e.word } = .never := hreply
  have hlimit : ({ u with err := e.word }.trigger 0x14#8).asked.cfg.waitLimit = u.cfg.waitLimit := rfl
  rw [abortTransaction, if_pos hstop, busStop, if_pos howned', hreply']
  constructor
  · intro n hn
    simp only [State.unanswered, hlimit, hn]
  · intro hinf
    simp only [State.unanswered, hlimit, hinf]

end

/-- Settles O30: the abort without a stop, with a stop that is answered, and with one that is not. -/
theorem heldBusAbortsTransactions : Obligations.HeldBusAbortsTransactions := by
  unfold Obligations.HeldBusAbortsTransactions
  intro i s e hen howned hi
  have held : s.startReply = .done → ∃ r u, r.word = e ∧ HeldFrom s u ∧ exec i s = (abortTransaction r u).outcome := by
    intro hreply
    obtain ⟨r, u, hword, hfrom, hbody⟩ := commandBody_held howned hreply hi
    exact ⟨r, u, hword, hfrom, by rw [exec_of_admitted (HeldCommand.admitted hen hi), hbody]⟩
  refine ⟨fun hstop hreply => ?_, fun hstop rest hanswers => ?_, fun hstop rest hanswers => ?_⟩
  · obtain ⟨r, u, rfl, hfrom, hexec⟩ := held hreply
    rw [abortTransaction, hfrom.cfg, hstop, if_neg (by decide)] at hexec
    exact ⟨_, hexec, rfl, rfl, hfrom.phase, hfrom.hist⟩
  · obtain ⟨r, u, rfl, hfrom, hexec⟩ := held (State.startReply_of hanswers rfl)
    have hnext : u.answers = .done :: rest := by rw [hfrom.answers, hanswers, List.tail_cons]
    rw [abortTransaction_stopped (by rw [hfrom.cfg, hstop]) (State.owned_of_phase (.inl hfrom.phase))
      (State.stopReply_of hnext rfl)] at hexec
    refine ⟨_, hexec, hfrom.ok, rfl, rfl, rfl, withCode_and_mask .noInfo u.status, ?_⟩
    show u.hist ++ [.stop] = _
    rw [hfrom.hist, List.append_assoc]
    rfl
  · obtain ⟨r, u, rfl, hfrom, hexec⟩ := held (State.startReply_of hanswers rfl)
    have hnext : u.answers = .never :: rest := by rw [hfrom.answers, hanswers, List.tail_cons]
    obtain ⟨hfinite, hinf⟩ := abortTransaction_unstopped (e := r) (u := u) (by rw [hfrom.cfg, hstop])
      (State.owned_of_phase (.inl hfrom.phase)) (State.stopReply_of hnext rfl)
    rw [hfrom.cfg] at hfinite hinf
    cases hw : s.cfg.waitLimit with
    | inf =>
      rw [hinf hw] at hexec
      exact ⟨_, hexec, hfrom.ok, rfl, withCode_and_mask .noInfo u.status, hfrom.phase, hfrom.hist, nofun,
        fun _ => ⟨hfrom.busy, hfrom.fail⟩⟩
    | finite n =>
      rw [hfinite n hw] at hexec
      exact ⟨_, hexec, hfrom.ok, rfl, withCode_and_mask .noInfo u.status, hfrom.phase, hfrom.hist,
        fun _ _ => ⟨rfl, rfl, rfl⟩, nofun⟩

end Sys2Proof.Machine
end

section
/-! SUPPORT. The commands against the step tables (spec/41_bus_transactions.md R160 to R165, spec/44_measurement_cycles.md R250). -/

namespace Sys2Proof.Machine

open Sys2Proof.Config

theorem maySequence_admitted {i : Instr} {s : State} (h : maySequence s i) :
    firstRefusal (commandChecks i s.beginCommand) = none := by
  cases i with
  | init | start | rstart | stop | wrb | rdb | stat | cmpt | cmpp => exact h.elim
  | wreg | rreg | ldcal | reqm | sinit => exact enabled_admitted h (by simp)
  | rburst => exact enabled_admitted h.1 (by simp [h.2])
  | rdrt | rdrp => exact enabled_admitted h.1 (by simp [h.2])
  | sread => exact enabled_admitted h.1 (by simp [h.2])

/-- The body of every bus command goes as its step table says. -/
theorem commandBody_plays {i : Instr} {s : State} (h : maySequence s i) {u : State} (hr : Running u) (hs : u.spc = .s0) :
    Plays (busPlan i) u (fun t => t.spc = .s0 ∧ t.tpc = .t0) (commandBody i u) := by
  have hcode : u.spc.code = 0#4 := by rw [hs]; rfl
  have step : ∀ {p : List PlanStep} {r : Run}, Plays p u (fun t => t.spc = u.spc ∧ t.tpc = .t0) r →
      Plays p u (fun t => t.spc = .s0 ∧ t.tpc = .t0) r := fun hp => hp.mono fun _ _ ⟨hspc, htpc⟩ => ⟨hspc.trans hs, htpc⟩
  cases i with
  | init | start | rstart | stop | wrb | rdb | stat | cmpt | cmpp => exact h.elim
  | wreg dev reg value => exact step (memWrite_plays dev reg value hr hcode)
  | rreg dev reg => exact step (memRead_plays rfl dev reg 1#8 hr hcode)
  | rburst dev reg count => exact step (memRead_plays rfl dev reg count hr hcode)
  | ldcal dev => exact step (ldcalStep_plays dev hr hcode)
  | reqm dev => exact step (reqmStep_plays dev hr hcode)
  | rdrt dev => exact step (rdrtStep_plays dev hr hcode)
  | rdrp dev => exact step (rdrpStep_plays dev hr hcode)
  | sread dev => exact sreadBody_plays dev hr
  | sinit dev => exact sinitBody_plays dev hr

theorem exec_plays {i : Instr} {s : State} (h : maySequence s i) :
    ∃ t, exec i s = .next t
      ∧ (∃ replies out, play s.cfg (busPlan i) s.busView replies = some out ∧ out.Left s t)
      ∧ (∀ out, play s.cfg (busPlan i) s.busView s.answers = some out → out.Left s t) := by
  rw [exec_eq_runCommand]
  exact runCommand_plays (maySequence_admitted h) fun hr _ hs => commandBody_plays h hr hs

/-! ### What an incomplete transaction has put on the bus -/

/-- `e` is the event of step `k` when it is answered as it requires. -/
def PlanStep.Shows (k : PlanStep) (e : BusEvent) : Prop :=
  ∀ owned r e' c, k.action.outcome owned r = some (e', c) → c = k.expected → e' = e

theorem playAbort_of_no_stop {cfg : Params} (hstop : cfg.stopOnAbort = false) (err : Word) (b : BusView) (rs : List Reply) :
    playAbort cfg err b rs = some { events := [], bus := b, ending := .failed err } := by
  simp [playAbort, hstop]

/-- What the steps `ks`, whose events are `es`, have put on the bus without a stop after an abort: all of `es`, or a part of it
and at most the event of the failing step. -/
theorem play_events {cfg : Params} (hstop : cfg.stopOnAbort = false) {ks : List PlanStep} {es : List BusEvent}
    (h : List.Forall₂ PlanStep.Shows ks es) : ∀ {b : BusView} {replies : List Reply} {out : Played},
    play cfg ks b replies = some out →
    (out.ending = .completed ∧ out.events = es)
    ∨ (out.ending ≠ .completed ∧ ∃ n last, n < es.length ∧ last.length ≤ 1 ∧ out.events = es.take n ++ last) := by
  induction h with
  | nil =>
    intro b replies out hplay
    cases hplay
    exact .inl ⟨rfl, rfl⟩
  | @cons k e ks es hk hks ih =>
    intro b replies out hplay
    obtain ⟨r, rs, rfl, hreply⟩ := play_script hplay
    by_cases hr : r = .never
    · subst hr
      cases hw : cfg.waitLimit with
      | inf =>
        rw [play_inf hw] at hplay
        cases hplay
        exact .inr ⟨nofun, 0, [], by simp, by simp, rfl⟩
      | finite n =>
        rw [play_finite hw, playAbort_of_no_stop hstop] at hplay
        cases hplay
        exact .inr ⟨nofun, 0, [], by simp, by simp, rfl⟩
    · obtain ⟨⟨e', c⟩, ho⟩ := Option.isSome_iff_exists.mp (hreply.resolve_left hr)
      rw [play_answered hr ho] at hplay
      by_cases hc : c = k.expected
      · obtain rfl := hk _ _ _ _ ho hc
        rw [if_pos hc] at hplay
        obtain ⟨p, hp, rfl⟩ := Option.map_eq_some_iff.mp hplay
        obtain ⟨hend, hevents⟩ | ⟨hend, n, last, hn, hlast, hevents⟩ := ih hp
        · exact .inl ⟨hend, congrArg (e' :: ·) hevents⟩
        · exact .inr ⟨hend, n + 1, last, by simpa using hn, hlast, congrArg (e' :: ·) hevents⟩
      · rw [if_neg hc, playAbort_of_no_stop hstop] at hplay
        cases hplay
        exact .inr ⟨nofun, 0, [e'], by simp, by simp, rfl⟩

theorem shows_start {k : PlanStep} (ha : k.action = .start) (he : k.expected = 0x08#8) : k.Shows .start := by
  intro owned r e c ho hc
  rw [ha] at ho
  cases owned <;> cases r <;> simp_all [PlanAction.outcome]

theorem shows_send {k : PlanStep} {b ack nack : Byte} (ha : k.action = .send b ack nack) (he : k.expected = ack)
    (hne : nack ≠ ack ∧ ack ≠ 0x38#8 ∧ ack ≠ 0x00#8) : k.Shows (.tx b true) := by
  intro owned r e c ho hc
  rw [ha] at ho
  cases r <;> simp_all [PlanAction.outcome]

theorem shows_stop {k : PlanStep} (ha : k.action = .stop) : k.Shows .stop := by
  intro owned r e c ho hc
  rw [ha] at ho
  cases r <;> simp_all [PlanAction.outcome]

theorem writePlan_shows (dev : DevAddr) (reg v : Byte) (sp : BitVec 4) :
    List.Forall₂ PlanStep.Shows (writePlan sp dev reg v) (writeEvents dev reg v) := by
  rw [writeEvents, slaW_eq_append]
  exact .cons (shows_start rfl rfl) (.cons (shows_send rfl rfl (by decide)) (.cons (shows_send rfl rfl (by decide))
    (.cons (shows_send rfl rfl (by decide)) (.cons (shows_stop rfl) .nil))))

theorem Played.Left.ok_of_completed {p : Played} {s t : State} (h : p.Left s t) (he : p.ending = .completed) : t.ok = true := by
  have hend := h.ending
  rw [he] at hend
  exact hend.1

theorem Played.Left.not_ok {p : Played} {s t : State} (h : p.Left s t) (he : p.ending ≠ .completed) : t.ok = false := by
  have hend := h.ending
  cases hp : p.ending with
  | completed => exact absurd hp he
  | failed e | hangs sp tp | hangsInStop =>
    rw [hp] at hend
    exact hend.1

/-- Settles O29: the body goes as its table says, and what a table makes of any replies is a part of the complete transaction
and at most one event more. -/
theorem transactionsFollowTheStepTables : Obligations.TransactionsFollowTheStepTables := by
  unfold Obligations.TransactionsFollowTheStepTables
  refine ⟨fun i s => exec_plays, fun dev reg value s t hstop hexec => ?_⟩
  by_cases hen : s.en = true
  · obtain ⟨u, hu, ⟨replies, out, hplay, hleft⟩, -⟩ := exec_plays (i := .wreg dev reg value) hen
    cases hexec.symm.trans hu
    obtain ⟨hend, hevents⟩ | ⟨hend, n, last, hn, hlast, hevents⟩ := play_events hstop (writePlan_shows dev reg value 0) hplay
    · exact .inl ⟨hleft.ok_of_completed hend, by rw [hleft.hist, hevents]⟩
    · exact .inr ⟨hleft.not_ok hend, n, last, Nat.lt_succ_iff.mp hn, hlast, by rw [hleft.hist, hevents, List.append_assoc]⟩
  · rw [exec_of_not_enabled (i := .wreg dev reg value) rfl (by simpa using hen) nofun] at hexec
    cases hexec
    exact .inr ⟨rfl, 0, [], by decide, by decide, by simp⟩

end Sys2Proof.Machine
end
